-- ==== Sys2Proof/Word.lean ====
section
/-! DEFINITION. The word types of the block: 32-bit registers (R22), bytes of MEM (R62), 16-bit tRNS keys (R36). -/

namespace Sys2Proof

/-- A host-visible register's value (R22). -/
abbrev Word := BitVec 32

/-- A byte of MEM (R60). -/
abbrev Byte := BitVec 8

/-- A tRNS key (R36). -/
abbrev Key := BitVec 16

end Sys2Proof
end

