-- ==== Sys2Proof/Config.lean ====
section
/-! DEFINITION. What an implementation fixes (R8) and the free values of the spec. Each is an opaque constant with no body:
a theorem holds whatever its value is. -/

namespace Sys2Proof

/-- MEM_BYTES - 1 of the block that `State.reset` describes (R8): MEM_BYTES is any of 1 to 2^32. Assumption 3. -/
opaque Config.memLast : Word

/-- LINE_BUF_BYTES - 1 of the block that `State.reset` describes (R8): LINE_BUF_BYTES is at least 1. Assumption 3. -/
opaque Config.lineBufLast : Nat

/-- The byte that MEM holds at an address from power-on until it is written (R291). Assumption 4. -/
opaque Config.powerOnByte : Nat → Byte

/-- The code-table entry at an index before any command wrote it (R43). Assumption 8. -/
opaque Config.powerOnEntry : Nat → BitVec 20

/-- The line-buffer byte at an index before any command wrote it (R45). Assumption 8. -/
opaque Config.powerOnLineByte : Nat → Byte

/-- How many steps the command started at a draw stays BUSY before its completion step (R300). Assumption 2. -/
opaque Config.commandSteps : Nat → Nat

/-- The value of a read of CRC_STATE, CRC_RESULT, OUT_COUNT or ERR_INFO while BUSY, at a draw (R51). Assumption 5. -/
opaque Config.busyRead : Nat → Word

/-- The byte at an address of the DST region of a command that reset abandoned, at a draw (R292). Assumption 6. -/
opaque Config.abandonedByte : Nat → Nat → Byte

end Sys2Proof
end

