-- ==== Sys2Proof/Syntax.lean ====
section
/-! DEFINITION. The nine commands of the block (R81) and the reasons a command word is illegal (R83). -/

namespace Sys2Proof

/-- The commands of R81, one per row of the opcode table. FILTER carries its immediate FTYPE (R82). -/
inductive Instr where
  | nop
  | lzwDecode
  | crcInit
  | crcUpdate
  | unfilter
  | filter (ftype : Nat)
  | expand
  | pack
  | adam7Deinterlace
deriving DecidableEq, Repr

/-- Why a command word selects no command (R83), in the order in which R84 tests. -/
inductive IllegalWord where
  /-- RES, bits 31:7, is not 0. -/
  | reservedBits
  /-- OP is one of 0x9 to 0xF. -/
  | reservedOpcode
  /-- FTYPE is not 0 and OP is not FILTER's. -/
  | strayFtype
deriving DecidableEq, Repr

/-- One row of the opcode table: `(w & mask) = pattern` selects the command (R84). -/
structure OpcodeRow where
  mask    : Word
  pattern : Word
deriving DecidableEq, Repr

end Sys2Proof
end

