-- ==== Sys2Proof/Machine/State.lean ====
section
/-! DEFINITION. The state of the block as plain data: host-visible registers (R22), memories (R60), internal registers
(R41, R46, R47), and the model's own fields that hold the host's transactions, the reset pin and the free draws. -/

namespace Sys2Proof.Machine

/-- A sparse RAM of `w`-bit cells: (index, value) pairs, indices strictly rising. An index that is not listed was never
written. -/
abbrev Ram (w : Nat) := List (Nat × BitVec w)

/-- MEM (R60): the bytes written since power-on. -/
abbrev Memory := List Host.Cell

/-- The parameters of one block (R8). Storing MEM_BYTES - 1 in 32 bits and LINE_BUF_BYTES - 1 makes the constraints of R8
hold for every value. No step changes them. Assumption 3. -/
structure Params where
  memLast     : Word
  lineBufLast : Nat
deriving DecidableEq, Repr

/-- STATUS (R25). The reserved bits have no storage. -/
structure Status where
  busy    : Bool
  done    : Bool
  err     : Bool
  trunc   : Bool
  short   : Bool
  eoi     : Bool
  dropped : Bool
  errcode : Byte
deriving DecidableEq, Repr

/-- The argument registers (R31 to R36). -/
structure Args where
  srcAddr   : Word
  srcLen    : Word
  dstAddr   : Word
  dstLen    : Word
  width     : Word
  height    : Word
  format    : Word
  plteAddr  : Word
  plteCount : Word
  trnsAddr  : Word
  trnsLen   : Word
  tkey0     : Key
  tkey1     : Key
  tkey2     : Key
deriving DecidableEq, Repr

/-- The internal registers of LZW_DECODE, in the widths of R46 (`eoiSeen` is R124's). `prevCode` is `none` when its valid
bit is 0. -/
structure LzwRegs where
  minCode   : BitVec 4
  clearCode : BitVec 12
  eoiCode   : BitVec 12
  nextCode  : BitVec 13
  codeSize  : BitVec 4
  prevCode  : Option (BitVec 12)
  bitbuf    : BitVec 19
  bitcnt    : BitVec 5
  inPos     : Word
  subRem    : BitVec 8
  streamEnd : Bool
  outPos    : Word
  eoiSeen   : Bool
deriving DecidableEq, Repr

/-- The counters of R47. The spec gives them no width. -/
structure Counters where
  /-- byte counter of CRC_UPDATE -/
  k : Word
  /-- row counter of UNFILTER, FILTER, EXPAND, PACK -/
  y : Word
  /-- column counter of UNFILTER, FILTER, EXPAND, PACK -/
  x : Word
  /-- pass counter of ADAM7_DEINTERLACE -/
  p : Word
  /-- pass-row counter of ADAM7_DEINTERLACE -/
  r : Word
  /-- pass-column counter of ADAM7_DEINTERLACE -/
  i : Word
deriving DecidableEq, Repr

/-- One transaction of the host (R65, R68, R87). -/
inductive HostReq where
  /-- `WR`: a 32-bit write of the register port. -/
  | wr (off : Nat) (v : Word)
  /-- `RD`: a 32-bit read of the register port. -/
  | rd (off : Nat)
  /-- A register-port access of another width than 32 bits (R68): refused. -/
  | portOther (off bytes : Nat)
  /-- `MEMW`: a write of one byte of MEM. -/
  | memw (a : Nat) (b : Byte)
  /-- `MEMR`: a read of one byte of MEM. -/
  | memr (a : Nat)
  /-- `WAIT`: reads of STATUS until BUSY reads 0 (R88). -/
  | wait
deriving DecidableEq, Repr

/-- What a read of the host returned. -/
inductive HostAns where
  | reg (off : Nat) (v : Word)
  | mem (a : Nat) (b : Byte)
deriving DecidableEq, Repr

/-- The host-visible registers of R22, by name. -/
inductive Reg where
  | cmd | status | ctrl | srcAddr | srcLen | dstAddr | dstLen | width | height | format | plteAddr | plteCount
  | trnsAddr | trnsLen | tkey0 | tkey1 | tkey2 | crcState | crcResult | outCount | errInfo
deriving DecidableEq, Repr

/-- The regions a command declares (R267). -/
inductive RegionId where
  | src | dst | plte | trns
deriving DecidableEq, Repr

/-- The flags that `finish` may set (R261). -/
inductive Flag where
  | trunc | short | eoi
deriving DecidableEq, Repr

/-- The errors a command ends by, with what R263 records of each. -/
inductive CmdError where
  | illegalCmd (w : Word)
  | range (region : RegionId)
  | overlap (region : RegionId)
  | format (fmt : Word)
  | srcShort (needed : Nat)
  | dstShort (needed : Nat)
  | lzwMincode (m : Nat)
  | lzwCode (code nextCode : Nat)
  | filterType (t : Nat)
  | paletteIndex (j : Nat)
  | sampleRange (v : Nat)
  | lineBuf (needed : Nat)
deriving DecidableEq, Repr

/-- Why the machine stops. An error of a command is no stop: it completes the command (R262). -/
inductive Fault where
  /-- LZW_DECODE outran the bound R138 gives. Raised by `execLzwDecode` only; no state reaches it. Safe: it stops where the
  block would go on. Assumption 14. -/
  | lzwUnbounded
deriving DecidableEq, Repr

/-- A step the model does not take. -/
inductive Refusal where
  /-- An arm of `exec` that has no meaning yet. Safe. No arm of this model is refused so. -/
  | notModelled (mnemonic : String)
  /-- The host accessed the register port at an offset that is no multiple of 4 in 0x00..0xFC (R68): "a model refuses
  them". Raised by the port. Safe. -/
  | portOffset (off : Nat)
  /-- The host accessed the register port in another width than 32 bits (R68). Raised by the port. Safe. -/
  | portWidth (off bytes : Nat)
  /-- The host accessed MEM at or above MEM_BYTES (R65): "a model refuses it". Raised by the MEM port. Safe. -/
  | memOutside (a : Nat)
deriving DecidableEq, Repr

/-- The state of the block. INVENTORY.md lists every field with the rule that names it. -/
structure State where
  params    : Params
  status    : Status
  /-- CTRL.IRQ_EN (R30) -/
  irqEn     : Bool
  args      : Args
  crcState  : Word
  outCount  : Word
  errInfo   : Word
  mem       : Memory
  /-- the latched command word (R41) -/
  command   : Word
  /-- the latched argument registers, `L.NAME` (R41) -/
  latch     : Args
  codeTable : Ram 20
  lineBuf   : Ram 8
  lzw       : LzwRegs
  counters  : Counters
  /-- the row register of PACK (R212) -/
  packRow   : List Byte
  /-- model field: steps the running command stays BUSY before its completion step -/
  busyLeft  : Nat
  /-- model field: the number of the next free draw -/
  draws     : Nat
  /-- model field: the host's transactions to come, in host program order -/
  hostQ     : List HostReq
  /-- model field: what the host's reads returned, oldest first -/
  answers   : List HostAns
  /-- model field: the level of `rst` at the coming steps, nearest first; low after the list ends -/
  rstPin    : List Bool
deriving DecidableEq, Repr

/-- STATUS after reset (R290). -/
def Status.reset : Status :=
  { busy := false, done := false, err := false, trunc := false, short := false, eoi := false, dropped := false
    errcode := 0 }

/-- The argument registers after reset (R22); also the latches, whose reset value is this model's choice (assumption 7). -/
def Args.reset : Args :=
  { srcAddr := 0, srcLen := 0, dstAddr := 0, dstLen := 0, width := 0, height := 0, format := 0, plteAddr := 0
    plteCount := 0, trnsAddr := 0, trnsLen := 0, tkey0 := 0, tkey1 := 0, tkey2 := 0 }

/-- DESIGN CHOICE, unsafe: the LZW registers after reset (assumption 7). -/
def LzwRegs.reset : LzwRegs :=
  { minCode := 0, clearCode := 0, eoiCode := 0, nextCode := 0, codeSize := 0, prevCode := none, bitbuf := 0, bitcnt := 0
    inPos := 0, subRem := 0, streamEnd := false, outPos := 0, eoiSeen := false }

/-- DESIGN CHOICE, unsafe: the counters after reset (assumption 7). -/
def Counters.reset : Counters := { k := 0, y := 0, x := 0, p := 0, r := 0, i := 0 }

/-- The block right after power-on (R290, R291): registers at the reset column of R22, nothing written to any memory, no
transaction pending. The parameters are the free constants of Config. -/
def State.reset : State :=
  { params := { memLast := Config.memLast, lineBufLast := Config.lineBufLast }
    status := Status.reset
    irqEn := false
    args := Args.reset
    crcState := 0xFFFFFFFF
    outCount := 0
    errInfo := 0
    mem := []
    command := 0
    latch := Args.reset
    codeTable := []
    lineBuf := []
    lzw := LzwRegs.reset
    counters := Counters.reset
    packRow := []
    busyLeft := 0
    draws := 0
    hostQ := []
    answers := []
    rstPin := [] }

end Sys2Proof.Machine
end

