-- ==== Sys2Proof/Machine/Flags.lean ====
section
/-! DEFINITION. Every change of STATUS (R25 to R28, R260 to R262) and its 32-bit view. -/

namespace Sys2Proof.Machine

/-- STATUS as a host read returns it (R25): bits 7 and 31:16 are reserved and read 0. -/
def Status.word (f : Status) : Word :=
  (0#16 ++ f.errcode) ++ ((((((((0#1 ++ BitVec.ofBool f.dropped) ++ BitVec.ofBool f.eoi) ++ BitVec.ofBool f.short)
    ++ BitVec.ofBool f.trunc) ++ BitVec.ofBool f.err) ++ BitVec.ofBool f.done) ++ BitVec.ofBool f.busy) : BitVec 8)

/-- A host write of `v` to STATUS: bits 6:1 are cleared by writing 1, every other bit is ignored (R25, R27, R28). -/
def Status.writeOneClear (f : Status) (v : Word) : Status :=
  { f with
    done    := f.done && !v.getLsbD 1
    err     := f.err && !v.getLsbD 2
    trunc   := f.trunc && !v.getLsbD 3
    short   := f.short && !v.getLsbD 4
    eoi     := f.eoi && !v.getLsbD 5
    dropped := f.dropped && !v.getLsbD 6 }

/-- The start of a command (R260): the result flags and ERRCODE are cleared, BUSY is set, DROPPED stays (R28). -/
def Status.started (f : Status) : Status :=
  { busy := true, done := false, err := false, trunc := false, short := false, eoi := false, dropped := f.dropped
    errcode := 0 }

/-- `REG.STATUS.F <- 1` for a flag of `finish` (R261). -/
def Status.setFlag (f : Status) : Flag → Status
  | .trunc => { f with trunc := true }
  | .short => { f with short := true }
  | .eoi => { f with eoi := true }

/-- Completion without error (R261). -/
def Status.finished (f : Status) (flags : List Flag) : Status :=
  { flags.foldl Status.setFlag f with done := true, busy := false }

/-- Completion by an error of code `c` (R262). -/
def Status.raised (f : Status) (c : Byte) : Status :=
  { f with errcode := c, err := true, done := true, busy := false }

/-- A write of CMD or CRC_STATE was dropped (R28, R50). -/
def Status.drop (f : Status) : Status := { f with dropped := true }

end Sys2Proof.Machine
end

