-- ==== Sys2Proof/Machine/Ops.lean ====
section
/-! DEFINITION. The shared operations: loops, sparse RAMs, byte reads and writes of MEM (R62, R63), register updates, the start
of a command (R260), completion without error (R261) and completion by an error (R262), which is the block's counterpart of
taking an exception (R272), with its acknowledgement beside it (R273). -/

namespace Sys2Proof.Machine

/-- What a step or a command answers. -/
abbrev Result := Host.Outcome State Fault Refusal

/-! ### Loops of the pseudocode -/

/-- `for k in 0 .. n-1: s <- f k s` (R9, R10). -/
def loop {σ : Type} (f : Nat → σ → σ) : Nat → σ → σ
  | 0, s => s
  | n + 1, s => f n (loop f n s)

/-- `for k in 0 .. n-1` with a body that may raise: the loop ends at the first error, with the state the body left. -/
def sweep {σ : Type} (f : Nat → σ → σ × Option CmdError) : Nat → σ → σ × Option CmdError
  | 0, s => (s, none)
  | n + 1, s =>
    match sweep f n s with
    | (s', some e) => (s', some e)
    | (s', none) => f n s'

/-! ### Sparse RAMs -/

/-- The value written to an index, `none` if nothing was. -/
def Ram.lookup {w : Nat} : Ram w → Nat → Option (BitVec w)
  | [], _ => none
  | (k, v) :: rest, a => if k = a then some v else Ram.lookup rest a

/-- Writing a cell. The indices stay strictly rising. -/
def Ram.put {w : Nat} : Ram w → Nat → BitVec w → Ram w
  | [], a, v => [(a, v)]
  | (k, u) :: rest, a, v =>
    if a < k then (a, v) :: (k, u) :: rest
    else if a = k then (a, v) :: rest
    else (k, u) :: Ram.put rest a v

/-- The canonical form: indices strictly rising. An unlisted index stands for "never written", which no written value equals,
so no entry equals what an unlisted index holds (assumption 4). -/
abbrev Ram.Rising {w : Nat} (m : Ram w) : Prop := m.Pairwise (fun c d => c.1 < d.1)

/-- The canonical form of MEM. -/
abbrev Memory.wf (m : Memory) : Prop := Ram.Rising m

/-- MEM_BYTES (R8). -/
def Params.memBytes (p : Params) : Nat := p.memLast.toNat + 1

/-- LINE_BUF_BYTES (R8). -/
def Params.lineBufBytes (p : Params) : Nat := p.lineBufLast + 1

/-- `MemRead(a, 1)` (R62): the byte last written, or the power-on byte, a free draw per address (R291). -/
def memRead (m : Memory) (a : Nat) : Byte := (Ram.lookup m a).getD (Config.powerOnByte a)

/-- `MemWrite(a, 1, v)` (R63). -/
def memWrite (m : Memory) (a : Nat) (v : Byte) : Memory := Ram.put m a v

/-- Writes of `n` bytes at `base` upward, byte `j` being `f j`. -/
def memFill (m : Memory) (base n : Nat) (f : Nat → Byte) : Memory := loop (fun j m => memWrite m (base + j) (f j)) n m

/-- The byte of MEM at an address. -/
def State.readByte (s : State) (a : Nat) : Byte := memRead s.mem a

/-! ### Register updates -/

/-- `REG.OUT_COUNT <- n` (R40, R264). -/
def State.withOut (s : State) (n : Nat) : State := { s with outCount := BitVec.ofNat 32 n }

/-- MEM replaced by what a command's writes made of it. -/
def State.withMem (s : State) (m : Memory) : State := { s with mem := m }

/-- `REG.CRC_STATE <- c` (R38). -/
def State.withCrc (s : State) (c : Word) : State := { s with crcState := c }

/-- What a command leaves in the counters of R47 (assumption 9). -/
def State.withCounters (s : State) (c : Counters) : State := { s with counters := c }

/-! ### Completion -/

/-- Error codes (R263). -/
def CmdError.code : CmdError → Byte
  | .illegalCmd _ => 0x01
  | .range _ => 0x02
  | .overlap _ => 0x03
  | .format _ => 0x04
  | .srcShort _ => 0x05
  | .dstShort _ => 0x06
  | .lzwMincode _ => 0x07
  | .lzwCode _ _ => 0x08
  | .filterType _ => 0x09
  | .paletteIndex _ => 0x0A
  | .sampleRange _ => 0x0B
  | .lineBuf _ => 0x0C

/-- Region ids (R263). -/
def RegionId.code : RegionId → Nat
  | .src => 0
  | .dst => 1
  | .plte => 2
  | .trns => 3

/-- The value an error records in ERR_INFO, before its reduction modulo 2^32 (R263, R265). -/
def CmdError.info : CmdError → Nat
  | .illegalCmd w => w.toNat
  | .range r => r.code
  | .overlap r => r.code
  | .format f => f.toNat
  | .srcShort n => n
  | .dstShort n => n
  | .lzwMincode m => m
  | .lzwCode c next => c + next * 2 ^ 16
  | .filterType t => t
  | .paletteIndex j => j
  | .sampleRange v => v
  | .lineBuf n => n

/-- `finish(flags)` (R261). -/
def State.finish (s : State) (flags : List Flag) : State := { s with status := s.status.finished flags }

/-- `raise E(info)` (R262), the block's counterpart of taking an exception (R272): the cause goes to ERRCODE, the value to
ERR_INFO, ERR and DONE are set and BUSY is cleared. -/
def State.raise (s : State) (e : CmdError) : State :=
  { s with status := s.status.raised e.code, errInfo := BitVec.ofNat 32 e.info }

/-- The counterpart of a return from an exception (R273): the host clears flags of STATUS by W1C. The other way to
acknowledge is the next start (`State.start`). -/
def State.acknowledge (s : State) (v : Word) : State := { s with status := s.status.writeOneClear v }

/-- The end of a command that ran: OUT_COUNT holds the progress (R264), then `raise` or `finish`. -/
def State.conclude (s : State) (out : Nat) (e : Option CmdError) (flags : List Flag) : State :=
  match e with
  | none => (s.withOut out).finish flags
  | some e => (s.withOut out).raise e

/-- The first check that fails (R265). -/
def firstError (checks : List (Option CmdError)) : Option CmdError := checks.findSome? id

/-- Start checks, then the operation (R265): the first check that fails raises, and no later one runs. -/
def State.checked (s : State) (checks : List (Option CmdError)) (run : State) : State :=
  match firstError checks with
  | some e => s.raise e
  | none => run

/-! ### The start of a command -/

/-- The start actions of R260 on a write of `w` to CMD: latch the word and the argument registers (R41), clear the results, set
BUSY. How long the command stays BUSY is a free draw (R300, assumption 2). -/
def State.start (s : State) (w : Word) : State :=
  { s with
    command := w
    latch := s.args
    status := s.status.started
    outCount := 0
    errInfo := 0
    busyLeft := Config.commandSteps s.draws
    draws := s.draws + 1 }

/-- A word that selects no command (R83): it completes at once with ILLEGAL_CMD. -/
def State.illegalCommand (s : State) : State := s.raise (.illegalCmd s.command)

end Sys2Proof.Machine
end

