-- ==== Sys2Proof/Machine/Operands.lean ====
section
/-! DEFINITION. The operand forms: declared regions (R64, R267), the FORMAT register (R33, R191, R266), the quantities of R11,
and the start checks of R265. -/

namespace Sys2Proof.Machine

/-! ### Regions -/

/-- A region of MEM: the addresses `base .. base + len - 1`, without wrap-around (R64). -/
structure Region where
  base : Nat
  len  : Nat
deriving DecidableEq, Repr

/-- In range (R64): empty, or ending at or below MEM_BYTES. -/
def Region.inRange (p : Params) (r : Region) : Bool := decide (r.len = 0 ∨ r.base + r.len ≤ p.memBytes)

/-- Two regions overlap (R64). -/
def Region.overlaps (r q : Region) : Bool :=
  decide (r.len ≠ 0 ∧ q.len ≠ 0 ∧ r.base < q.base + q.len ∧ q.base < r.base + r.len)

/-- SRC (R31, R267). -/
def Args.src (L : Args) : Region := ⟨L.srcAddr.toNat, L.srcLen.toNat⟩

/-- DST (R31, R267). -/
def Args.dst (L : Args) : Region := ⟨L.dstAddr.toNat, L.dstLen.toNat⟩

/-- PLTE: three bytes an entry (R34, R267). -/
def Args.plte (L : Args) : Region := ⟨L.plteAddr.toNat, 3 * L.plteCount.toNat⟩

/-- TRNS (R35, R267). -/
def Args.trns (L : Args) : Region := ⟨L.trnsAddr.toNat, L.trnsLen.toNat⟩

/-! ### FORMAT -/

/-- The PNG colour types (R191). -/
inductive Ctype where
  | gray | rgb | palette | grayAlpha | rgba
deriving DecidableEq, Repr

/-- CTYPE's codes (R33). -/
def Ctype.ofCode : Nat → Option Ctype
  | 0 => some .gray
  | 2 => some .rgb
  | 3 => some .palette
  | 4 => some .grayAlpha
  | 6 => some .rgba
  | _ => none

/-- The legal depths of a colour type (R191). -/
def Ctype.depths : Ctype → List Nat
  | .gray => [1, 2, 4, 8, 16]
  | .rgb => [8, 16]
  | .palette => [1, 2, 4, 8]
  | .grayAlpha => [8, 16]
  | .rgba => [8, 16]

/-- `ch(ct)`, samples per pixel (R11). -/
def Ctype.channels : Ctype → Nat
  | .gray => 1
  | .rgb => 3
  | .palette => 1
  | .grayAlpha => 2
  | .rgba => 4

/-- TRNS_EN may be set for gray and RGB only (R266). -/
def Ctype.keyed : Ctype → Bool
  | .gray => true
  | .rgb => true
  | .palette => false
  | .grayAlpha => false
  | .rgba => false

/-- A legal pixel format. -/
structure PixFmt where
  ct     : Ctype
  depth  : Nat
  trnsEn : Bool
deriving DecidableEq, Repr

/-- The commands that read FORMAT (R266). -/
inductive FormatUser where
  | unfilter | filter | expand | pack | adam7
deriving DecidableEq, Repr

/-- FORMAT's fields (R33) when its reserved bits are 0, the pair (CTYPE, DEPTH) is legal and TRNS_EN fits it (R266). -/
def pixFmt (v : Word) : Option PixFmt :=
  if (v.extractLsb' 17 15).toNat ≠ 0 then none
  else match Ctype.ofCode (v.extractLsb' 0 8).toNat with
    | none => none
    | some ct =>
      if (v.extractLsb' 8 8).toNat ∈ ct.depths ∧ (v.getLsbD 16 = true → ct.keyed = true)
      then some ⟨ct, (v.extractLsb' 8 8).toNat, v.getLsbD 16⟩
      else none

/-- The conditions of R266 that depend on the command: the table sizes for EXPAND of a palette image, the depth for PACK. -/
def formatFits (c : FormatUser) (L : Args) (f : PixFmt) : Bool :=
  match c with
  | .expand => decide (f.ct = .palette → L.plteCount.toNat ≤ 256 ∧ L.trnsLen.toNat ≤ 256)
  | .pack => decide (f.depth ≠ 16)
  | .unfilter => true
  | .filter => true
  | .adam7 => true

/-- FORMAT as a command reads it; `none` when it is not legal for the command (R266). -/
def formatFor (c : FormatUser) (L : Args) : Option PixFmt :=
  match pixFmt L.format with
  | none => none
  | some f => if formatFits c L f then some f else none

/-! ### Quantities of R11 -/

/-- `ceil(a / b)` (R9). -/
def ceilDiv (a b : Nat) : Nat := (a + b - 1) / b

/-- `bitsPP(ct, d)` (R11). -/
def PixFmt.bitsPP (f : PixFmt) : Nat := f.ct.channels * f.depth

/-- `Bpp(ct, d)` (R11). -/
def PixFmt.bytesPP (f : PixFmt) : Nat := ceilDiv f.bitsPP 8

/-- `bpl(W, ct, d)` (R11). -/
def PixFmt.bpl (f : PixFmt) (w : Nat) : Nat := ceilDiv (w * f.bitsPP) 8

/-- The operands of a raster command: base addresses, size and format, from the latches (R85). -/
structure Raster where
  src : Nat
  dst : Nat
  w   : Nat
  h   : Nat
  fmt : PixFmt
deriving DecidableEq, Repr

/-- The raster operands of the latched registers. -/
def Args.raster (L : Args) (f : PixFmt) : Raster := ⟨L.srcAddr.toNat, L.dstAddr.toNat, L.width.toNat, L.height.toNat, f⟩

/-- `bpl(W, ct, d)` of a raster. -/
def Raster.bpl (r : Raster) : Nat := r.fmt.bpl r.w

/-- Length of a raw image (R160). -/
def Raster.rawLen (r : Raster) : Nat := r.h * r.bpl

/-- Length of a filtered stream (R160). -/
def Raster.filteredLen (r : Raster) : Nat := r.h * (1 + r.bpl)

/-! ### Start checks (R265) -/

/-- Step 4: RANGE of a declared region. -/
def rangeCheck (p : Params) (id : RegionId) (r : Region) : Option CmdError := if r.inRange p then none else some (.range id)

/-- Step 5: OVERLAP of a declared region with DST. -/
def overlapCheck (id : RegionId) (r dst : Region) : Option CmdError := if r.overlaps dst then some (.overlap id) else none

/-- Step 6: SRC_SHORT. -/
def srcShortCheck (L : Args) (needed : Nat) : Option CmdError :=
  if L.srcLen.toNat < needed then some (.srcShort needed) else none

/-- Step 7: DST_SHORT. -/
def dstShortCheck (L : Args) (needed : Nat) : Option CmdError :=
  if L.dstLen.toNat < needed then some (.dstShort needed) else none

/-- Step 8: LINE_BUF. -/
def lineBufCheck (p : Params) (needed : Nat) : Option CmdError :=
  if p.lineBufBytes < needed then some (.lineBuf needed) else none

/-- Steps 4 and 5 for a command whose regions are SRC and DST (R267). -/
def srcDstChecks (p : Params) (L : Args) : List (Option CmdError) :=
  [rangeCheck p .src L.src, rangeCheck p .dst L.dst, overlapCheck .src L.src L.dst]

/-- Steps 4 to 7 for a raster command whose regions are SRC and DST. -/
def rasterChecks (p : Params) (L : Args) (srcNeeded dstNeeded : Nat) : List (Option CmdError) :=
  srcDstChecks p L ++ [srcShortCheck L srcNeeded, dstShortCheck L dstNeeded]

/-- The DST region of a command; `none` for a command that declares none (R267). -/
def dstRegion (i : Instr) (L : Args) : Option Region :=
  match i with
  | .nop => none
  | .crcInit => none
  | .crcUpdate => none
  | .lzwDecode => some L.dst
  | .unfilter => some L.dst
  | .filter _ => some L.dst
  | .expand => some L.dst
  | .pack => some L.dst
  | .adam7Deinterlace => some L.dst

end Sys2Proof.Machine
end

