-- ==== Sys2Proof/Machine/Filter.lean ====
section
/-! DEFINITION. The scanline filter codec: predictor (R163 to R165), UNFILTER (R161), FILTER (R170). -/

namespace Sys2Proof.Machine

/-- The five filter types (R160). -/
inductive FilterType where
  | none | sub | up | average | paeth
deriving DecidableEq, Repr

/-- Filter type numbers (R160); `Option.none` above 4. -/
def FilterType.ofCode : Nat → Option FilterType
  | 0 => some .none
  | 1 => some .sub
  | 2 => some .up
  | 3 => some .average
  | 4 => some .paeth
  | _ => Option.none

/-- The left, above and upper-left neighbours of a byte (R163). -/
structure Neighbours where
  a : Byte
  b : Byte
  c : Byte
deriving DecidableEq, Repr

/-- `neighbours(y, x)` over the raw bytes of an image, 0 outside it (R163). -/
def neighbours (raw : Nat → Nat → Byte) (bytesPP y x : Nat) : Neighbours where
  a := if bytesPP ≤ x then raw y (x - bytesPP) else 0
  b := if 1 ≤ y then raw (y - 1) x else 0
  c := if bytesPP ≤ x ∧ 1 ≤ y then raw (y - 1) (x - bytesPP) else 0

/-- `paeth(a, b, c)` on integers (R165). -/
def paethOf (a b c : Byte) : Byte :=
  let p : Int := (a.toNat : Int) + b.toNat - c.toNat
  let pa := (p - a.toNat).natAbs
  let pb := (p - b.toNat).natAbs
  let pc := (p - c.toNat).natAbs
  if pa ≤ pb ∧ pa ≤ pc then a else if pb ≤ pc then b else c

/-- `pred(t, a, b, c)` (R164); the sum of Average is not truncated. -/
def FilterType.pred (t : FilterType) (n : Neighbours) : Byte :=
  match t with
  | .none => 0
  | .sub => n.a
  | .up => n.b
  | .average => BitVec.ofNat 8 ((n.a.toNat + n.b.toNat) / 2)
  | .paeth => paethOf n.a n.b n.c

/-- Byte `x` of row `y` of the raw image at `base` (R160). -/
def rawByte (m : Memory) (base bpl : Nat) (y x : Nat) : Byte := memRead m (base + y * bpl + x)

/-! ### UNFILTER -/

/-- One byte of UNFILTER (R161); the neighbours are read back from DST (R162). -/
def unfilterByte (r : Raster) (t : FilterType) (y x : Nat) (m : Memory) : Memory :=
  memWrite m (r.dst + y * r.bpl + x)
    (memRead m (r.src + y * (1 + r.bpl) + 1 + x) + t.pred (neighbours (rawByte m r.dst r.bpl) r.fmt.bytesPP y x))

/-- MEM and the rows completed (R264). -/
structure RowWork where
  mem  : Memory
  rows : Nat
deriving DecidableEq, Repr

/-- One row of UNFILTER (R161): a type byte above 4 raises FILTER_TYPE before the row writes. -/
def unfilterRow (r : Raster) (y : Nat) (k : RowWork) : RowWork × Option CmdError :=
  let t := (memRead k.mem (r.src + y * (1 + r.bpl))).toNat
  match FilterType.ofCode t with
  | none => (k, some (.filterType t))
  | some ft => (⟨loop (unfilterByte r ft y) r.bpl k.mem, y + 1⟩, none)

/-- All rows of UNFILTER. -/
def unfilterRows (r : Raster) (m : Memory) : RowWork × Option CmdError := sweep (unfilterRow r) r.h ⟨m, 0⟩

/-- The counters of a row command that stopped after `rows` rows (assumption 9). -/
def rowCounters (s : State) (rows : Nat) : Counters := { s.counters with y := BitVec.ofNat 32 rows, x := 0 }

/-- The operation of UNFILTER (R161). -/
def unfilterRun (s : State) (r : Raster) : State :=
  let k := unfilterRows r s.mem
  ((s.withMem k.1.mem).withCounters (rowCounters s k.1.rows)).conclude k.1.rows k.2 []

/-- UNFILTER (R161). -/
def execUnfilter (s : State) : Result :=
  match formatFor .unfilter s.latch with
  | none => .next (s.raise (.format s.latch.format))
  | some f =>
    .next (s.checked (rasterChecks s.params s.latch (s.latch.raster f).filteredLen (s.latch.raster f).rawLen)
      (unfilterRun s (s.latch.raster f)))

/-! ### FILTER -/

/-- One byte of FILTER (R170); the neighbours are read from SRC. -/
def filterByte (r : Raster) (t : FilterType) (y x : Nat) (m : Memory) : Memory :=
  memWrite m (r.dst + y * (1 + r.bpl) + 1 + x)
    (rawByte m r.src r.bpl y x - t.pred (neighbours (rawByte m r.src r.bpl) r.fmt.bytesPP y x))

/-- One row of FILTER (R170): its type byte, then its filtered bytes. -/
def filterRow (r : Raster) (code : Nat) (t : FilterType) (y : Nat) (m : Memory) : Memory :=
  loop (filterByte r t y) r.bpl (memWrite m (r.dst + y * (1 + r.bpl)) (BitVec.ofNat 8 code))

/-- The operation of FILTER (R170). It raises nothing once it runs. -/
def filterRun (s : State) (r : Raster) (code : Nat) (t : FilterType) : State :=
  (((s.withMem (loop (filterRow r code t) r.h s.mem)).withCounters (rowCounters s r.h)).withOut r.h).finish []

/-- FILTER (R170): FILTER_TYPE is checked before FORMAT (R265). -/
def execFilter (ftype : Nat) (s : State) : Result :=
  match FilterType.ofCode ftype with
  | none => .next (s.raise (.filterType ftype))
  | some t =>
    match formatFor .filter s.latch with
    | none => .next (s.raise (.format s.latch.format))
    | some f =>
      .next (s.checked (rasterChecks s.params s.latch (s.latch.raster f).rawLen (s.latch.raster f).filteredLen)
        (filterRun s (s.latch.raster f) ftype t))

end Sys2Proof.Machine
end

