-- ==== Sys2Proof/Machine/Adam7.lean ====
section
/-! DEFINITION. The Adam7 deinterlacer: pass table (R230), pass dimensions (R231, R232), ADAM7_DEINTERLACE (R233 to R235). -/

namespace Sys2Proof.Machine

/-- One pass of the schedule: starting row and column, row and column increments. -/
structure Pass where
  sr : Nat
  sc : Nat
  ri : Nat
  ci : Nat
deriving DecidableEq, Repr

/-- The pass table ROM (R230); pass `p` of the spec is index `p - 1` here (R47 counts passes 0..6). -/
def adam7Pass (p : Nat) : Pass :=
  match p with
  | 0 => ⟨0, 0, 8, 8⟩
  | 1 => ⟨0, 4, 8, 8⟩
  | 2 => ⟨4, 0, 8, 4⟩
  | 3 => ⟨0, 2, 4, 4⟩
  | 4 => ⟨2, 0, 4, 2⟩
  | 5 => ⟨0, 1, 2, 2⟩
  | _ => ⟨1, 0, 2, 1⟩

/-- `sw(p)`, pixels per pass row (R231). -/
def passWidth (w p : Nat) : Nat :=
  if (adam7Pass p).sc < w then ceilDiv (w - (adam7Pass p).sc) (adam7Pass p).ci else 0

/-- Rows of a pass, whether or not it has pixels in them: `sh(p)` (R231). -/
def passHeight (h p : Nat) : Nat :=
  if (adam7Pass p).sr < h then ceilDiv (h - (adam7Pass p).sr) (adam7Pass p).ri else 0

/-- `bpll(p)`, bytes per pass row (R231). -/
def passBpl (f : PixFmt) (w p : Nat) : Nat := f.bpl (passWidth w p)

/-- Rows of a pass in the stream: none for an empty pass (R231, R232). -/
def passRows (w h p : Nat) : Nat := if passWidth w p = 0 then 0 else passHeight h p

/-- `alen(W, H, ct, d)` (R232). -/
def adam7Len (r : Raster) : Nat := loop (fun p n => n + passRows r.w r.h p * (1 + passBpl r.fmt r.w p)) 7 0

/-- Pass rows of the whole stream (R264). -/
def adam7Rows (r : Raster) : Nat := loop (fun p n => n + passRows r.w r.h p) 7 0

/-- A byte of the line buffer (R45); one never written is a free value, which no command reads (assumption 8). -/
def lineByte (lb : Ram 8) (x : Nat) : Byte := (Ram.lookup lb x).getD (Config.powerOnLineByte x)

/-- What ADAM7_DEINTERLACE carries from pass row to pass row: MEM, the line buffer, the stream offset `off`, the rows done, and
the counters of R47. -/
structure Adam7Work where
  mem  : Memory
  lb   : Ram 8
  off  : Nat
  rows : Nat
  p    : Nat
  r    : Nat
  i    : Nat
deriving DecidableEq, Repr

/-- The reconstructed bytes `cur[0 .. n-1]` of a pass row (R234). -/
def passCur (m : Memory) (lb : Ram 8) (base bytesPP row : Nat) (t : FilterType) (n : Nat) : List Byte :=
  loop (fun x cur =>
    cur ++ [memRead m (base + 1 + x) + t.pred
      { a := if bytesPP ≤ x then cur.getD (x - bytesPP) 0 else 0
        b := if 1 ≤ row then lineByte lb x else 0
        c := if bytesPP ≤ x ∧ 1 ≤ row then lineByte lb (x - bytesPP) else 0 }]) n []

/-- `for x in 0 .. n-1: LB[x] <- cur[x]` (R234). -/
def storeLine (lb : Ram 8) (cur : List Byte) (n : Nat) : Ram 8 := loop (fun x lb => Ram.put lb x (cur.getD x 0)) n lb

/-- One pixel of the bit-level scatter (R235), for `bb` in 1, 2, 4: only the pixel's own bits are set, so the padding bits of a row
stay 0 (R233), where R238 read literally would have UNFILTER's (assumption 13). -/
def scatterBits (r : Raster) (cur : List Byte) (y x i : Nat) (m : Memory) : Memory :=
  let bb := r.fmt.bitsPP
  let v := ((cur.getD (i * bb / 8) 0).toNat >>> (8 - bb - i * bb % 8)) % 2 ^ bb
  let o := r.dst + y * r.bpl + x * bb / 8
  memWrite m o (memRead m o ||| BitVec.ofNat 8 (v <<< (8 - bb - x * bb % 8)))

/-- One pixel of the byte copy (R235), for `bb` a multiple of 8. -/
def scatterBytes (r : Raster) (cur : List Byte) (y x i : Nat) (m : Memory) : Memory :=
  memFill m (r.dst + y * r.bpl + x * r.fmt.bytesPP) r.fmt.bytesPP (fun j => cur.getD (i * r.fmt.bytesPP + j) 0)

/-- One pixel of a pass row goes to its place in the image (R235). -/
def scatterPixel (r : Raster) (cur : List Byte) (p row i : Nat) (m : Memory) : Memory :=
  let y := (adam7Pass p).sr + row * (adam7Pass p).ri
  let x := (adam7Pass p).sc + i * (adam7Pass p).ci
  if r.fmt.bitsPP < 8 then scatterBits r cur y x i m else scatterBytes r cur y x i m

/-- `scatter_pass_row(p, r)` (R235). -/
def scatterRow (r : Raster) (cur : List Byte) (p row : Nat) (m : Memory) : Memory :=
  loop (scatterPixel r cur p row) (passWidth r.w p) m

/-- One pass row (R233): a type byte above 4 raises FILTER_TYPE before the row is reconstructed. -/
def adam7Row (r : Raster) (p row : Nat) (k : Adam7Work) : Adam7Work × Option CmdError :=
  let t := (memRead k.mem (r.src + k.off)).toNat
  match FilterType.ofCode t with
  | none => ({ k with p := p, r := row, i := 0 }, some (.filterType t))
  | some ft =>
    let n := passBpl r.fmt r.w p
    let cur := passCur k.mem k.lb (r.src + k.off) r.fmt.bytesPP row ft n
    ({ mem := scatterRow r cur p row k.mem, lb := storeLine k.lb cur n, off := k.off + (1 + n), rows := k.rows + 1
       p := p, r := row + 1, i := passWidth r.w p }, none)

/-- The output cleared (R233). -/
def adam7Clear (r : Raster) (m : Memory) : Memory := memFill m r.dst r.rawLen (fun _ => 0)

/-- All pass rows, pass by pass; an empty pass has none (R233). -/
def adam7Passes (r : Raster) (m : Memory) (lb : Ram 8) : Adam7Work × Option CmdError :=
  sweep (fun p => sweep (adam7Row r p) (passRows r.w r.h p)) 7
    { mem := adam7Clear r m, lb := lb, off := 0, rows := 0, p := 0, r := 0, i := 0 }

/-- The line buffer after a command (R45). -/
def State.withLineBuf (s : State) (lb : Ram 8) : State := { s with lineBuf := lb }

/-- The operation of ADAM7_DEINTERLACE (R233). The counters it leaves are assumption 9. -/
def adam7Run (s : State) (r : Raster) : State :=
  let k := adam7Passes r s.mem s.lineBuf
  (((s.withMem k.1.mem).withLineBuf k.1.lb).withCounters
    { s.counters with p := BitVec.ofNat 32 k.1.p, r := BitVec.ofNat 32 k.1.r, i := BitVec.ofNat 32 k.1.i }).conclude
    k.1.rows k.2 []

/-- ADAM7_DEINTERLACE (R233): LINE_BUF is its last start check (R265). -/
def execAdam7 (s : State) : Result :=
  match formatFor .adam7 s.latch with
  | none => .next (s.raise (.format s.latch.format))
  | some f =>
    .next (s.checked
      (rasterChecks s.params s.latch (adam7Len (s.latch.raster f)) (s.latch.raster f).rawLen
        ++ [lineBufCheck s.params (s.latch.raster f).bpl])
      (adam7Run s (s.latch.raster f)))

end Sys2Proof.Machine
end

