-- ==== Sys2Proof/Machine/Control.lean ====
section
/-! DEFINITION. The control command NOP (R250). -/

namespace Sys2Proof.Machine

/-- NOP (R250): OUT_COUNT <- 0, `finish([])`. -/
def execNop (s : State) : Result := .next ((s.withOut 0).finish [])

end Sys2Proof.Machine
end

