-- ==== Sys2Proof/Machine/Crc.lean ====
section
/-! DEFINITION. The CRC32 generator: CRC_INIT (R103) and CRC_UPDATE (R104). -/

namespace Sys2Proof.Machine

/-- One shift-and-xor of the table's construction (R100). -/
def crcShift (c : Word) : Word := if c.getLsbD 0 then 0xEDB88320#32 ^^^ (c >>> 1) else c >>> 1

/-- The CRC table ROM (R44, R100). -/
def crcTable (n : Byte) : Word := loop (fun _ c => crcShift c) 8 (n.setWidth 32)

/-- `crc_step(c, b)` (R101). -/
def crcStep (c : Word) (b : Byte) : Word := crcTable ((c ^^^ b.setWidth 32).setWidth 8) ^^^ (c >>> 8)

/-- The fold of `crc_step` over `n` bytes of MEM from `base` upward (R102, R104). -/
def crcOver (m : Memory) (base n : Nat) (c : Word) : Word := loop (fun k c => crcStep c (memRead m (base + k))) n c

/-- CRC_INIT (R103). -/
def execCrcInit (s : State) : Result := .next (((s.withCrc 0xFFFFFFFF).withOut 0).finish [])

/-- The operation of CRC_UPDATE (R104). The counter it leaves is assumption 9. -/
def crcUpdateRun (s : State) : State :=
  (((s.withCrc (crcOver s.mem s.latch.srcAddr.toNat s.latch.srcLen.toNat s.crcState)).withCounters
    { s.counters with k := s.latch.srcLen }).withOut s.latch.srcLen.toNat).finish []

/-- CRC_UPDATE (R104): RANGE on SRC is its one start check. -/
def execCrcUpdate (s : State) : Result :=
  .next (s.checked [rangeCheck s.params .src s.latch.src] (crcUpdateRun s))

end Sys2Proof.Machine
end

