-- ==== Sys2Proof/Machine/Lzw.lean ====
section
/-! DEFINITION. The LZW decoder unit: LZW_DECODE (R121 to R141). The pseudocode's quantities are naturals (R9); the command
leaves them in the registers of R46 when it ends. -/

namespace Sys2Proof.Machine

/-- The decoder's state while it runs (R46, R124). -/
structure Lzw where
  minCode   : Nat
  clearCode : Nat
  eoiCode   : Nat
  nextCode  : Nat
  codeSize  : Nat
  prevCode  : Option Nat
  bitbuf    : Nat
  bitcnt    : Nat
  inPos     : Nat
  subRem    : Nat
  streamEnd : Bool
  outPos    : Nat
  eoiSeen   : Bool
deriving DecidableEq, Repr

/-- The decoder's state with the memories it writes. -/
structure LzwRun where
  z     : Lzw
  table : Ram 20
  mem   : Memory
deriving DecidableEq, Repr

/-- How the loop of R121 ends. -/
inductive LzwEnd where
  /-- the end code or exhaustion (R128, R126) -/
  | stream
  /-- the output would exceed DST_LEN (R132) -/
  | overrun
  /-- an error (R123, R125, R129) -/
  | error (e : CmdError)
  /-- the bound of R138 was outrun; no state reaches it (assumption 14) -/
  | unbounded
deriving DecidableEq, Repr

/-- `init(m)` (R124). -/
def Lzw.init (m : Nat) : Lzw :=
  { minCode := m, clearCode := 2 ^ m, eoiCode := 2 ^ m + 1, nextCode := 2 ^ m + 2, codeSize := m + 1, prevCode := none
    bitbuf := 0, bitcnt := 0, inPos := 1, subRem := 0, streamEnd := false, outPos := 0, eoiSeen := false }

/-- `src_byte(j)` (R123): SRC_SHORT at or past SRC_LEN. -/
def srcByte (m : Memory) (src : Region) (j : Nat) : Except CmdError Byte :=
  if j < src.len then .ok (memRead m (src.base + j)) else .error (.srcShort j)

/-- The data byte of a sub-block, with `subRem` bytes left in it (the last lines of R125's `next_data_byte`). -/
def lzwDataByte (m : Memory) (src : Region) (z : Lzw) : Except CmdError (Option Byte × Lzw) :=
  match srcByte m src z.inPos with
  | .error e => .error e
  | .ok b => .ok (some b, { z with inPos := z.inPos + 1, subRem := z.subRem - 1 })

/-- `next_data_byte()` (R125). -/
def nextDataByte (m : Memory) (src : Region) (z : Lzw) : Except CmdError (Option Byte × Lzw) :=
  if z.streamEnd then .ok (none, z)
  else if z.subRem = 0 then
    match srcByte m src z.inPos with
    | .error e => .error e
    | .ok n =>
      if n.toNat = 0 then .ok (none, { z with inPos := z.inPos + 1, streamEnd := true })
      else lzwDataByte m src { z with inPos := z.inPos + 1, subRem := n.toNat }
  else lzwDataByte m src z

/-- The `while` of `next_code_bits` (R126). Each turn adds 8 bits, so `codeSize` turns are enough. -/
def fillBits (m : Memory) (src : Region) : Nat → Lzw → Except CmdError Lzw
  | 0, z => .ok z
  | n + 1, z =>
    if z.codeSize ≤ z.bitcnt then .ok z
    else match nextDataByte m src z with
      | .error e => .error e
      | .ok (none, z') => .ok z'
      | .ok (some b, z') =>
        fillBits m src n { z' with bitbuf := z'.bitbuf ||| b.toNat <<< z'.bitcnt, bitcnt := z'.bitcnt + 8 }

/-- `next_code_bits()` (R126); `none` is EXHAUSTED. -/
def nextCodeBits (m : Memory) (src : Region) (z : Lzw) : Except CmdError (Option Nat × Lzw) :=
  match fillBits m src z.codeSize z with
  | .error e => .error e
  | .ok z =>
    if z.bitcnt < z.codeSize then .ok (none, z)
    else .ok (some (z.bitbuf % 2 ^ z.codeSize),
      { z with bitbuf := z.bitbuf >>> z.codeSize, bitcnt := z.bitcnt - z.codeSize })

/-- `do_clear()` (R127): the reset is logical, no entry is erased (90_conflicts.md C1). -/
def Lzw.clear (z : Lzw) : Lzw := { z with nextCode := z.eoiCode + 1, codeSize := z.minCode + 1, prevCode := none }

/-- The entry of a code (R43): prefix in bits 19:8, suffix in bits 7:0. One never written is a free value, which no command
reads (assumption 8). -/
def tableEntry (table : Ram 20) (c : Nat) : BitVec 20 := (Ram.lookup table c).getD (Config.powerOnEntry c)

/-- `expand(c)` (R130) with a bound on the chase; `none` when it is outrun, which R130 excludes. -/
def expandCode (table : Ram 20) (clearCode : Nat) : Nat → Nat → Option (List Byte)
  | 0, _ => none
  | n + 1, c =>
    if c < clearCode then some [BitVec.ofNat 8 c]
    else match expandCode table clearCode n ((tableEntry table c).toNat / 2 ^ 8) with
      | none => none
      | some front => some (front ++ [(tableEntry table c).setWidth 8])

/-- A chase visits each code at most once (R130), and there are 4096 codes (R43). -/
def chaseBound : Nat := 4096

/-- The code check of R129. -/
def Lzw.validCode (z : Lzw) (code : Nat) : Bool :=
  decide (code < z.nextCode ∨ (code = z.nextCode ∧ z.prevCode ≠ none))

/-- `output_of(code)` (R131): the bytes of a valid ordinary code and their first byte. -/
def outputOf (table : Ram 20) (z : Lzw) (code : Nat) : Option (List Byte × Byte) :=
  if code < z.nextCode then
    match expandCode table z.clearCode chaseBound code with
    | none => none
    | some s => some (s, s.headD 0)
  else
    match z.prevCode with
    | none => none
    | some prev =>
      match expandCode table z.clearCode chaseBound prev with
      | none => none
      | some s => some (s ++ [s.headD 0], s.headD 0)

/-- The width of the next code after an entry was added (R133). -/
def grownSize (next size : Nat) : Nat := if 2 ^ size ≤ next ∧ size < 12 then size + 1 else size

/-- `add_entry(k)` (R133). -/
def addEntry (table : Ram 20) (z : Lzw) (k : Byte) : Ram 20 × Lzw :=
  match z.prevCode with
  | none => (table, z)
  | some prev =>
    if z.nextCode < 4096 then
      (Ram.put table z.nextCode (BitVec.ofNat 20 (prev * 2 ^ 8 + k.toNat)),
        { z with nextCode := z.nextCode + 1, codeSize := grownSize (z.nextCode + 1) z.codeSize })
    else (table, z)

/-- One ordinary code (R129 to R134): the run goes on, or the command ends with what was done so far. -/
def lzwOrdinary (dst : Region) (k : LzwRun) (code : Nat) : LzwRun × Option LzwEnd :=
  if k.z.validCode code then
    match outputOf k.table k.z code with
    | none => (k, some .unbounded)
    | some (out, first) =>
      if dst.len < k.z.outPos + out.length then (k, some .overrun)
      else
        let added := addEntry k.table { k.z with outPos := k.z.outPos + out.length } first
        ({ mem := memFill k.mem (dst.base + k.z.outPos) out.length (fun j => out.getD j 0), table := added.1
           z := { added.2 with prevCode := some code } }, none)
  else (k, some (.error (.lzwCode code k.z.nextCode)))

/-- One code of the loop of R121. DESIGN CHOICE (assumption 9): when SRC_SHORT is raised inside the fetch of a code, the dead registers
of R46 (`in_pos`, `sub_rem`, `bitbuf`, `bitcnt`) keep their values from before that fetch, without the updates that R125 and R126
made before the raise. -/
def lzwCodeStep (src dst : Region) (k : LzwRun) : LzwRun × Option LzwEnd :=
  match nextCodeBits k.mem src k.z with
  | .error e => (k, some (.error e))
  | .ok (none, z) => ({ k with z := z }, some .stream)
  | .ok (some code, z) =>
    if code = z.clearCode then ({ k with z := z.clear }, none)
    else if code = z.eoiCode then ({ k with z := { z with eoiSeen := true } }, some .stream)
    else lzwOrdinary dst { k with z := z } code

/-- The loop of R121, with a bound on its turns. -/
def lzwLoop (src dst : Region) : Nat → LzwRun → LzwRun × LzwEnd
  | 0, k => (k, .unbounded)
  | n + 1, k =>
    match lzwCodeStep src dst k with
    | (k', some e) => (k', e)
    | (k', none) => lzwLoop src dst n k'

/-- Every turn takes at least 3 bits or ends the command (R138), so this many turns are enough. -/
def lzwBound (src : Region) : Nat := 8 * src.len + 1

/-- The flags of `end_of_stream()` (R135). -/
def streamFlags (z : Lzw) (dstLen : Nat) : List Flag :=
  (if z.eoiSeen then [Flag.eoi] else []) ++ (if z.outPos < dstLen then [Flag.short] else [])

/-- The decoder's state in the registers of R46. -/
def Lzw.regs (z : Lzw) : LzwRegs :=
  { minCode := BitVec.ofNat 4 z.minCode, clearCode := BitVec.ofNat 12 z.clearCode, eoiCode := BitVec.ofNat 12 z.eoiCode
    nextCode := BitVec.ofNat 13 z.nextCode, codeSize := BitVec.ofNat 4 z.codeSize
    prevCode := z.prevCode.map (BitVec.ofNat 12), bitbuf := BitVec.ofNat 19 z.bitbuf, bitcnt := BitVec.ofNat 5 z.bitcnt
    inPos := BitVec.ofNat 32 z.inPos, subRem := BitVec.ofNat 8 z.subRem, streamEnd := z.streamEnd
    outPos := BitVec.ofNat 32 z.outPos, eoiSeen := z.eoiSeen }

/-- MEM, the code table and the LZW registers after a run. -/
def State.withLzw (s : State) (k : LzwRun) : State := { s with mem := k.mem, codeTable := k.table, lzw := k.z.regs }

/-- How LZW_DECODE completes (R132, R135, R136, R262): OUT_COUNT is `out_pos` on every completion. -/
def lzwComplete (s : State) (k : LzwRun) (e : LzwEnd) : Result :=
  match e with
  | .stream => .next ((s.withLzw k).conclude k.z.outPos none (streamFlags k.z s.latch.dst.len))
  | .overrun => .next ((s.withLzw k).conclude k.z.outPos none [.trunc])
  | .error e => .next ((s.withLzw k).conclude k.z.outPos (some e) [])
  | .unbounded => .fault .lzwUnbounded

/-- The operation of LZW_DECODE once `m` is accepted (R121). -/
def lzwDecodeFrom (s : State) (m : Nat) : Result :=
  let e := lzwLoop s.latch.src s.latch.dst (lzwBound s.latch.src) ⟨Lzw.init m, s.codeTable, s.mem⟩
  lzwComplete s e.1 e.2

/-- The operation of LZW_DECODE (R121): the minimum code size is read and checked before any byte of DST is written (R123),
so OUT_COUNT is 0 on their errors (R136). -/
def lzwRun (s : State) : Result :=
  match srcByte s.mem s.latch.src 0 with
  | .error e => .next (s.conclude 0 (some e) [])
  | .ok b =>
    if b.toNat < 2 ∨ 8 < b.toNat then .next (s.conclude 0 (some (.lzwMincode b.toNat)) [])
    else lzwDecodeFrom s b.toNat

/-- LZW_DECODE (R121); its start checks are those of R122. -/
def execLzwDecode (s : State) : Result :=
  match firstError (srcDstChecks s.params s.latch) with
  | some e => .next (s.raise e)
  | none => lzwRun s

end Sys2Proof.Machine
end

