-- ==== Sys2Proof/Machine/Pixel.lean ====
section
/-! DEFINITION. The pixel expander and packer: samples (R192), EXPAND (R195 to R200), PACK (R210 to R212). -/

namespace Sys2Proof.Machine

/-- Bits `d` of a packed byte whose sample starts `o` bits below the top: the sub-byte case of `samp` (R192). -/
def subByte (b : Byte) (d o : Nat) : Nat := (b.toNat >>> (8 - d - o)) % 2 ^ d

/-- Sample `j` of pixel `x` of a scanline whose byte `k` is `row k`: the body of `samp` (R192). -/
def rowSample (row : Nat → Byte) (f : PixFmt) (x j : Nat) : Nat :=
  if f.depth < 8 then subByte (row (x * f.depth / 8)) f.depth (x * f.depth % 8)
  else if f.depth = 8 then (row (x * f.ct.channels + j)).toNat
  else (row (2 * (x * f.ct.channels + j))).toNat * 2 ^ 8 + (row (2 * (x * f.ct.channels + j) + 1)).toNat

/-- `samp(A, y, x, s)`: sample `j` of pixel `x` of row `y` of the raw image at `base` (R192). -/
def sample (m : Memory) (base w : Nat) (f : PixFmt) (y x j : Nat) : Nat :=
  rowSample (fun k => memRead m (base + y * f.bpl w + k)) f x j

/-- `to8(v)` (R194). -/
def to8 (d v : Nat) : Byte := BitVec.ofNat 8 (if d = 16 then v >>> 8 else v)

/-- `scale(d)` (R194). -/
def grayScale (d : Nat) : Nat :=
  match d with
  | 1 => 255
  | 2 => 85
  | 4 => 17
  | _ => 1

/-- `gray8(v)` (R194). -/
def gray8 (d v : Nat) : Byte := if d < 8 then BitVec.ofNat 8 (v * grayScale d) else to8 d v

/-- One RGBA8 pixel (R193). -/
structure Rgba where
  red   : Byte
  green : Byte
  blue  : Byte
  alpha : Byte
deriving DecidableEq, Repr

/-- The alpha of a keyed colour type: 0 for the key, 255 otherwise (R197, R200). -/
def keyAlpha (isKey : Bool) : Byte := if isKey then 0 else 255

/-- RGBA pixels (R196). -/
def pixelRgba (d : Nat) (v : Nat → Nat) : Rgba := ⟨to8 d (v 0), to8 d (v 1), to8 d (v 2), to8 d (v 3)⟩

/-- RGB pixels (R197): the full sample values are compared with the 16-bit keys. -/
def pixelRgb (L : Args) (f : PixFmt) (v : Nat → Nat) : Rgba :=
  ⟨to8 f.depth (v 0), to8 f.depth (v 1), to8 f.depth (v 2),
    keyAlpha (f.trnsEn && decide (v 0 = L.tkey0.toNat ∧ v 1 = L.tkey1.toNat ∧ v 2 = L.tkey2.toNat))⟩

/-- Palette pixels (R198): an index at or above PLTE_COUNT raises PALETTE_INDEX. -/
def pixelPalette (m : Memory) (L : Args) (j : Nat) : Except CmdError Rgba :=
  if L.plteCount.toNat ≤ j then .error (.paletteIndex j)
  else .ok
    ⟨memRead m (L.plteAddr.toNat + 3 * j), memRead m (L.plteAddr.toNat + 3 * j + 1),
      memRead m (L.plteAddr.toNat + 3 * j + 2),
      if j < L.trnsLen.toNat then memRead m (L.trnsAddr.toNat + j) else 255⟩

/-- Gray and alpha pixels (R199). -/
def pixelGrayAlpha (d : Nat) (v : Nat → Nat) : Rgba := ⟨to8 d (v 0), to8 d (v 0), to8 d (v 0), to8 d (v 1)⟩

/-- The transparency match of gray (R200): below depth 8 the scaled key is compared with the scaled gray. -/
def grayKey (L : Args) (d v : Nat) : Bool :=
  if d < 8 then decide ((gray8 d v).toNat = L.tkey0.toNat * grayScale d) else decide (v = L.tkey0.toNat)

/-- Gray pixels (R200). -/
def pixelGray (L : Args) (f : PixFmt) (v : Nat) : Rgba :=
  ⟨gray8 f.depth v, gray8 f.depth v, gray8 f.depth v, keyAlpha (f.trnsEn && grayKey L f.depth v)⟩

/-- `pixel(y, x)` (R196 to R200). -/
def pixelAt (m : Memory) (L : Args) (r : Raster) (y x : Nat) : Except CmdError Rgba :=
  match r.fmt.ct with
  | .rgba => .ok (pixelRgba r.fmt.depth (sample m r.src r.w r.fmt y x))
  | .rgb => .ok (pixelRgb L r.fmt (sample m r.src r.w r.fmt y x))
  | .palette => pixelPalette m L (sample m r.src r.w r.fmt y x 0)
  | .grayAlpha => .ok (pixelGrayAlpha r.fmt.depth (sample m r.src r.w r.fmt y x))
  | .gray => .ok (pixelGray L r.fmt (sample m r.src r.w r.fmt y x 0))

/-! ### EXPAND -/

/-- MEM and the pixels completed (R264). -/
structure PixelWork where
  mem    : Memory
  pixels : Nat
deriving DecidableEq, Repr

/-- The four bytes of a pixel at `o` (R193). -/
def writePixel (m : Memory) (o : Nat) (p : Rgba) : Memory :=
  memWrite (memWrite (memWrite (memWrite m o p.red) (o + 1) p.green) (o + 2) p.blue) (o + 3) p.alpha

/-- One pixel of EXPAND (R195): on PALETTE_INDEX the pixel is not written. -/
def expandPixel (L : Args) (r : Raster) (y x : Nat) (k : PixelWork) : PixelWork × Option CmdError :=
  match pixelAt k.mem L r y x with
  | .error e => (k, some e)
  | .ok p => (⟨writePixel k.mem (r.dst + 4 * (y * r.w + x)) p, k.pixels + 1⟩, none)

/-- All pixels of EXPAND, row by row (R195). -/
def expandPixels (L : Args) (r : Raster) (m : Memory) : PixelWork × Option CmdError :=
  sweep (fun y => sweep (expandPixel L r y) r.w) r.h ⟨m, 0⟩

/-- The operation of EXPAND (R195). The counters it leaves are assumption 9. -/
def expandRun (s : State) (r : Raster) : State :=
  let k := expandPixels s.latch r s.mem
  ((s.withMem k.1.mem).withCounters
    { s.counters with y := BitVec.ofNat 32 (k.1.pixels / r.w), x := BitVec.ofNat 32 (k.1.pixels % r.w) }).conclude
    k.1.pixels k.2 []

/-- Start checks of EXPAND from RANGE on (R195): PLTE and TRNS are declared for palette images only (R267). -/
def expandChecks (p : Params) (L : Args) (r : Raster) : List (Option CmdError) :=
  (if r.fmt.ct = .palette then
    [rangeCheck p .src L.src, rangeCheck p .dst L.dst, rangeCheck p .plte L.plte, rangeCheck p .trns L.trns,
      overlapCheck .src L.src L.dst, overlapCheck .plte L.plte L.dst, overlapCheck .trns L.trns L.dst]
   else srcDstChecks p L)
  ++ [srcShortCheck L r.rawLen, dstShortCheck L (4 * r.w * r.h)]

/-- EXPAND (R195). -/
def execExpand (s : State) : Result :=
  match formatFor .expand s.latch with
  | none => .next (s.raise (.format s.latch.format))
  | some f => .next (s.checked (expandChecks s.params s.latch (s.latch.raster f)) (expandRun s (s.latch.raster f)))

/-! ### PACK -/

/-- `row[k] <- row[k] | v` on the row register (R210). -/
def orRow (row : List Byte) (k : Nat) (v : Byte) : List Byte := row.set k (row.getD k 0 ||| v)

/-- One sample of PACK (R210): below depth 8 a value that does not fit raises SAMPLE_RANGE. -/
def packSample (m : Memory) (r : Raster) (y x j : Nat) (row : List Byte) : List Byte × Option CmdError :=
  let v := (memRead m (r.src + (y * r.w + x) * r.fmt.ct.channels + j)).toNat
  if r.fmt.depth = 8 then (row.set (x * r.fmt.ct.channels + j) (BitVec.ofNat 8 v), none)
  else if 2 ^ r.fmt.depth ≤ v then (row, some (.sampleRange v))
  else
    (orRow row (x * r.fmt.depth / 8) (BitVec.ofNat 8 (v <<< (8 - r.fmt.depth - x * r.fmt.depth % 8))), none)

/-- The row register of row `y`, assembled before any byte of the row is written (R212). -/
def packRow (m : Memory) (r : Raster) (y : Nat) : List Byte × Option CmdError :=
  sweep (fun x => sweep (packSample m r y x) r.fmt.ct.channels) r.w (List.replicate r.bpl 0)

/-- MEM, the row register and the rows completed. -/
structure PackWork where
  mem  : Memory
  row  : List Byte
  rows : Nat
deriving DecidableEq, Repr

/-- One row of PACK (R210). -/
def packOneRow (r : Raster) (y : Nat) (k : PackWork) : PackWork × Option CmdError :=
  match packRow k.mem r y with
  | (row, some e) => ({ k with row := row }, some e)
  | (row, none) => (⟨memFill k.mem (r.dst + y * r.bpl) r.bpl (fun i => row.getD i 0), row, y + 1⟩, none)

/-- All rows of PACK. -/
def packRows (r : Raster) (m : Memory) : PackWork × Option CmdError := sweep (packOneRow r) r.h ⟨m, [], 0⟩

/-- What PACK leaves in its row register (assumption 9). -/
def State.withPackRow (s : State) (row : List Byte) : State := { s with packRow := row }

/-- The operation of PACK (R210). DESIGN CHOICE (assumption 9): with `H = 0`, where R210 assigns no row, the row register of R212
becomes empty. -/
def packRun (s : State) (r : Raster) : State :=
  let k := packRows r s.mem
  (((s.withMem k.1.mem).withPackRow k.1.row).withCounters
    { s.counters with y := BitVec.ofNat 32 k.1.rows, x := 0 }).conclude k.1.rows k.2 []

/-- Input bytes PACK needs: one a sample (R211). -/
def Raster.sampleBytes (r : Raster) : Nat := r.w * r.h * r.fmt.ct.channels

/-- PACK (R210). -/
def execPack (s : State) : Result :=
  match formatFor .pack s.latch with
  | none => .next (s.raise (.format s.latch.format))
  | some f =>
    .next (s.checked (rasterChecks s.params s.latch (s.latch.raster f).sampleBytes (s.latch.raster f).rawLen)
      (packRun s (s.latch.raster f)))

end Sys2Proof.Machine
end

