-- ==== Sys2Proof/Machine/Dispatch.lean ====
section
/-! DEFINITION. Which meaning each command has: one arm per row of the opcode table (R81). -/

namespace Sys2Proof.Machine

def exec (i : Instr) (s : State) : Host.Outcome State Fault Refusal :=
  match i with
  | .nop => Sys2Proof.Machine.execNop s
  | .lzwDecode => Sys2Proof.Machine.execLzwDecode s
  | .crcInit => Sys2Proof.Machine.execCrcInit s
  | .crcUpdate => Sys2Proof.Machine.execCrcUpdate s
  | .unfilter => Sys2Proof.Machine.execUnfilter s
  | .filter ftype => Sys2Proof.Machine.execFilter ftype s
  | .expand => Sys2Proof.Machine.execExpand s
  | .pack => Sys2Proof.Machine.execPack s
  | .adam7Deinterlace => Sys2Proof.Machine.execAdam7 s

end Sys2Proof.Machine
end

