-- ==== Sys2Proof/WellFormed.lean ====
section
/-! DEFINITION. Which terms of `Instr` stand for a command word. -/

namespace Sys2Proof

/-- FTYPE is a 3-bit field (R82), so FILTER's filter type is below 8. The other commands have no operand in the word (R85). -/
def Instr.wf : Instr → Bool
  | .filter ftype => decide (ftype < 8)
  | .nop => true
  | .lzwDecode => true
  | .crcInit => true
  | .crcUpdate => true
  | .unfilter => true
  | .expand => true
  | .pack => true
  | .adam7Deinterlace => true

end Sys2Proof
end

