-- ==== Sys2Proof/Decode.lean ====
section
/-! DEFINITION. The command word of R80: its fields, the total decoder of R84, the encoder, and the opcode table's rows. -/

namespace Sys2Proof

/-- OP, bits 3:0 (R80). -/
def opField (w : Word) : Nat := (w.extractLsb' 0 4).toNat

/-- FTYPE, bits 6:4, zero-extended (R80, R82). -/
def ftypeField (w : Word) : Nat := (w.extractLsb' 4 3).toNat

/-- RES, bits 31:7 (R80). -/
def resField (w : Word) : Nat := (w.extractLsb' 7 25).toNat

/-- The command an opcode names (R81); `none` for the reserved opcodes 0x9 to 0xF. -/
def commandOf (op ftype : Nat) : Option Instr :=
  match op with
  | 0 => some .nop
  | 1 => some .lzwDecode
  | 2 => some .crcInit
  | 3 => some .crcUpdate
  | 4 => some .unfilter
  | 5 => some (.filter ftype)
  | 6 => some .expand
  | 7 => some .pack
  | 8 => some .adam7Deinterlace
  | _ => none

/-- Decoding is total on all words (R84): a command, or the reason of R83 why the word is illegal. -/
def decode (w : Word) : Except IllegalWord Instr :=
  if resField w ≠ 0 then .error .reservedBits
  else match commandOf (opField w) (ftypeField w) with
    | none => .error .reservedOpcode
    | some i => if opField w ≠ 5 ∧ ftypeField w ≠ 0 then .error .strayFtype else .ok i

/-- OP of a command (R81). -/
def opcodeOf : Instr → Nat
  | .nop => 0
  | .lzwDecode => 1
  | .crcInit => 2
  | .crcUpdate => 3
  | .unfilter => 4
  | .filter _ => 5
  | .expand => 6
  | .pack => 7
  | .adam7Deinterlace => 8

/-- FTYPE of a command: 0 for every command but FILTER (R80). -/
def ftypeOf : Instr → Nat
  | .filter ftype => ftype
  | .nop => 0
  | .lzwDecode => 0
  | .crcInit => 0
  | .crcUpdate => 0
  | .unfilter => 0
  | .expand => 0
  | .pack => 0
  | .adam7Deinterlace => 0

/-- The command word of a well-formed command (R81): OP in bits 3:0 and FTYPE in bits 6:4, RES 0. -/
def encode (i : Instr) : Word := BitVec.ofNat 32 (opcodeOf i + ftypeOf i * 16)

/-- The row of the opcode table for a command: FILTER's mask leaves FTYPE out, every other mask is all ones. -/
def rowOf : Instr → OpcodeRow
  | .nop => ⟨0xFFFFFFFF, 0x00000000⟩
  | .lzwDecode => ⟨0xFFFFFFFF, 0x00000001⟩
  | .crcInit => ⟨0xFFFFFFFF, 0x00000002⟩
  | .crcUpdate => ⟨0xFFFFFFFF, 0x00000003⟩
  | .unfilter => ⟨0xFFFFFFFF, 0x00000004⟩
  | .filter _ => ⟨0xFFFFFF8F, 0x00000005⟩
  | .expand => ⟨0xFFFFFFFF, 0x00000006⟩
  | .pack => ⟨0xFFFFFFFF, 0x00000007⟩
  | .adam7Deinterlace => ⟨0xFFFFFFFF, 0x00000008⟩

/-- The rows of the opcode table, in its order. -/
def opcodeTable : List OpcodeRow :=
  [rowOf .nop, rowOf .lzwDecode, rowOf .crcInit, rowOf .crcUpdate, rowOf .unfilter, rowOf (.filter 0), rowOf .expand,
   rowOf .pack, rowOf .adam7Deinterlace]

/-- A word is a row's when its bits under the mask are the row's pattern (R84). -/
def OpcodeRow.selects (r : OpcodeRow) (w : Word) : Bool := w &&& r.mask == r.pattern

/-- What the decoder reads from an instruction of `nbits` bits `w`. A command is one 32-bit word (R80), written in one port
access, so bits past `nbits` are 0 and there is no byte order to lay out. -/
def decodeTableWord (nbits w : Nat) : Option Instr :=
  match decode (BitVec.ofNat 32 (w % 2 ^ nbits)) with
  | .ok i => some i
  | .error _ => none

end Sys2Proof
end

