-- ==== Sys2Proof/Machine/Port.lean ====
section
/-! DEFINITION. The host's side of the block: the register port (R22, R24 to R42, R50, R51), the MEM port (R65, R66), the
interrupt line (R48), the reset input (R290, R292) and the script lines of R87 and R88. -/

namespace Sys2Proof.Machine

/-! ### Register port -/

/-- The register map (R22); `none` for an unmapped offset (R42). -/
def regAt (off : Nat) : Option Reg :=
  match off with
  | 0x00 => some .cmd
  | 0x04 => some .status
  | 0x08 => some .ctrl
  | 0x0C => some .srcAddr
  | 0x10 => some .srcLen
  | 0x14 => some .dstAddr
  | 0x18 => some .dstLen
  | 0x1C => some .width
  | 0x20 => some .height
  | 0x24 => some .format
  | 0x28 => some .plteAddr
  | 0x2C => some .plteCount
  | 0x30 => some .trnsAddr
  | 0x34 => some .trnsLen
  | 0x38 => some .tkey0
  | 0x3C => some .tkey1
  | 0x40 => some .tkey2
  | 0x44 => some .crcState
  | 0x48 => some .crcResult
  | 0x4C => some .outCount
  | 0x50 => some .errInfo
  | _ => none

/-- The offset of a register (R22). -/
def offsetOf : Reg → Nat
  | .cmd => 0x00
  | .status => 0x04
  | .ctrl => 0x08
  | .srcAddr => 0x0C
  | .srcLen => 0x10
  | .dstAddr => 0x14
  | .dstLen => 0x18
  | .width => 0x1C
  | .height => 0x20
  | .format => 0x24
  | .plteAddr => 0x28
  | .plteCount => 0x2C
  | .trnsAddr => 0x30
  | .trnsLen => 0x34
  | .tkey0 => 0x38
  | .tkey1 => 0x3C
  | .tkey2 => 0x40
  | .crcState => 0x44
  | .crcResult => 0x48
  | .outCount => 0x4C
  | .errInfo => 0x50

/-- An offset the port takes: a multiple of 4 in 0x00..0xFC (R68). -/
def portOffsetOk (off : Nat) : Bool := decide (off % 4 = 0 ∧ off ≤ 0xFC)

/-- What a register holds, as a read while BUSY = 0 returns it (R22, R24, R25, R30 to R40). -/
def State.regValue (s : State) : Reg → Word
  | .cmd => 0
  | .status => s.status.word
  | .ctrl => (BitVec.ofBool s.irqEn).setWidth 32
  | .srcAddr => s.args.srcAddr
  | .srcLen => s.args.srcLen
  | .dstAddr => s.args.dstAddr
  | .dstLen => s.args.dstLen
  | .width => s.args.width
  | .height => s.args.height
  | .format => s.args.format
  | .plteAddr => s.args.plteAddr
  | .plteCount => s.args.plteCount
  | .trnsAddr => s.args.trnsAddr
  | .trnsLen => s.args.trnsLen
  | .tkey0 => s.args.tkey0.setWidth 32
  | .tkey1 => s.args.tkey1.setWidth 32
  | .tkey2 => s.args.tkey2.setWidth 32
  | .crcState => s.crcState
  | .crcResult => s.crcState ^^^ 0xFFFFFFFF
  | .outCount => s.outCount
  | .errInfo => s.errInfo

/-- The registers whose reads are unspecified while BUSY = 1 (R51). -/
def openWhileBusy : Reg → Bool
  | .crcState | .crcResult | .outCount | .errInfo => true
  | .cmd | .status | .ctrl | .srcAddr | .srcLen | .dstAddr | .dstLen | .width | .height | .format | .plteAddr
  | .plteCount | .trnsAddr | .trnsLen | .tkey0 | .tkey1 | .tkey2 => false

/-- The host's read data, appended to what it read before. -/
def State.answer (s : State) (a : HostAns) : State := { s with answers := s.answers ++ [a] }

/-- A read of the port: exact, or a fresh free draw for the registers of R51 while BUSY (assumption 5). An unmapped offset reads
0 (R42). Reads have no side effect on the block (R70). -/
def State.portRead (s : State) (off : Nat) : State :=
  match regAt off with
  | none => s.answer (.reg off 0)
  | some r =>
    if s.status.busy && openWhileBusy r then
      { s.answer (.reg off (Config.busyRead s.draws)) with draws := s.draws + 1 }
    else s.answer (.reg off (s.regValue r))

/-- A write of STATUS changes the flags alone; an argument register is stored (R31 to R36). -/
def State.setArgs (s : State) (a : Args) : State := { s with args := a }

/-- A dropped write of CMD or CRC_STATE (R28, R50). -/
def State.dropWrite (s : State) : State := { s with status := s.status.drop }

/-- A write of the register port (R24 to R42, R50). -/
def State.regWrite (s : State) (r : Reg) (v : Word) : State :=
  match r with
  | .cmd => if s.status.busy then s.dropWrite else s.start v
  | .status => s.acknowledge v
  | .ctrl => { s with irqEn := v.getLsbD 0 }
  | .srcAddr => s.setArgs { s.args with srcAddr := v }
  | .srcLen => s.setArgs { s.args with srcLen := v }
  | .dstAddr => s.setArgs { s.args with dstAddr := v }
  | .dstLen => s.setArgs { s.args with dstLen := v }
  | .width => s.setArgs { s.args with width := v }
  | .height => s.setArgs { s.args with height := v }
  | .format => s.setArgs { s.args with format := v }
  | .plteAddr => s.setArgs { s.args with plteAddr := v }
  | .plteCount => s.setArgs { s.args with plteCount := v }
  | .trnsAddr => s.setArgs { s.args with trnsAddr := v }
  | .trnsLen => s.setArgs { s.args with trnsLen := v }
  | .tkey0 => s.setArgs { s.args with tkey0 := v.setWidth 16 }
  | .tkey1 => s.setArgs { s.args with tkey1 := v.setWidth 16 }
  | .tkey2 => s.setArgs { s.args with tkey2 := v.setWidth 16 }
  | .crcState => if s.status.busy then s.dropWrite else s.withCrc v
  | .crcResult => s
  | .outCount => s
  | .errInfo => s

/-- A write of the port; an unmapped offset ignores it (R42). -/
def State.portWrite (s : State) (off : Nat) (v : Word) : State :=
  match regAt off with
  | none => s
  | some r => s.regWrite r v

/-! ### Interrupt line -/

/-- `irq` (R48, R270). -/
def State.irq (s : State) : Bool := s.irqEn && s.status.done

/-! ### Host transactions -/

/-- The host's transactions still to come after the one being served. -/
def State.withQueue (s : State) (q : List HostReq) : State := { s with hostQ := q }

/-- A MEM access is held while BUSY = 1 (R66). -/
def HostReq.held (busy : Bool) : HostReq → Bool
  | .memw _ _ => busy
  | .memr _ => busy
  | .wr _ _ => false
  | .rd _ => false
  | .portOther _ _ => false
  | .wait => false

/-- One transaction served. `rest` are the transactions after it. Accesses outside the interface are refused (R65, R68). `WAIT`
reads STATUS and comes again while BUSY = 1 (R88). -/
def State.serve (s : State) (q : HostReq) (rest : List HostReq) : Result :=
  match q with
  | .wr off v => if portOffsetOk off then .next ((s.withQueue rest).portWrite off v) else .refused (.portOffset off)
  | .rd off => if portOffsetOk off then .next ((s.withQueue rest).portRead off) else .refused (.portOffset off)
  | .portOther off bytes => .refused (.portWidth off bytes)
  | .memw a b =>
    if a < s.params.memBytes then .next ((s.withQueue rest).withMem (memWrite s.mem a b)) else .refused (.memOutside a)
  | .memr a =>
    if a < s.params.memBytes then .next ((s.withQueue rest).answer (.mem a (s.readByte a))) else .refused (.memOutside a)
  | .wait => .next ((if s.status.busy then s else s.withQueue rest).portRead (offsetOf .status))

/-- The host's turn: its next transaction, unless it has none or the transaction is held. -/
def State.hostTurn (s : State) : Result :=
  match s.hostQ with
  | [] => .next s
  | q :: rest => if q.held s.status.busy then .next s else s.serve q rest

/-! ### Reset input -/

/-- The DST region of the command that is running: of the latched word, if it is a command that declares one (R267). -/
def State.runningDst (s : State) : Option Region :=
  match decode s.command with
  | .ok i => dstRegion i s.latch
  | .error _ => none

/-- How many addresses of a region exist in MEM. -/
def Region.existing (r : Region) (p : Params) : Nat := min r.len (p.memBytes - r.base)

/-- Every byte of the abandoned command's DST region takes a free value (R292, assumption 6). -/
def State.abandonedMem (s : State) : Memory :=
  match s.status.busy, s.runningDst with
  | true, some d =>
    memFill s.mem d.base (d.existing s.params) (fun j => Config.abandonedByte s.draws (d.base + j))
  | _, _ => s.mem

/-- `rst` is asserted (R290, R292): registers to their reset values, MEM unchanged but for the abandoned command's DST. The
parameters, the host's transactions and the draws are not the block's registers. -/
def State.assertReset (s : State) : State :=
  { State.reset with
    params := s.params
    mem := s.abandonedMem
    draws := s.draws + 1
    hostQ := s.hostQ
    answers := s.answers
    rstPin := s.rstPin }

/-! ### Host script lines (R87, R88) -/

/-- `MEMW addr: b0 b1 ...`. -/
def scriptMemw (addr : Nat) : List Byte → List HostReq
  | [] => []
  | b :: bs => .memw addr b :: scriptMemw (addr + 1) bs

/-- `MEMR addr, n`. -/
def scriptMemr (addr n : Nat) : List HostReq := (List.range n).map (fun j => .memr (addr + j))

/-- `WR REG, value`. -/
def scriptWr (r : Reg) (v : Word) : List HostReq := [.wr (offsetOf r) v]

/-- `RD REG`. -/
def scriptRd (r : Reg) : List HostReq := [.rd (offsetOf r)]

/-- `CMD MNEMONIC`, `CMD FILTER, t`. -/
def scriptCmd (i : Instr) : List HostReq := [.wr (offsetOf .cmd) (encode i)]

/-- `RUN MNEMONIC`. -/
def scriptRun (i : Instr) : List HostReq := scriptCmd i ++ [.wait]

end Sys2Proof.Machine
end

