-- ==== Sys2Proof/Machine/Run.lean ====
section
/-! DEFINITION. The running command: its completion step, and the steps it stays BUSY before it (R74, R260, R300). -/

namespace Sys2Proof.Machine

/-- The completion step: the latched word's command runs whole, as one indivisible step (R74, assumption 1); an illegal word
completes with ILLEGAL_CMD (R83). -/
def runCommand (s : State) : Result :=
  match decode s.command with
  | .ok i => exec i s
  | .error _ => .next s.illegalCommand

/-- One step with `rst` low. An idle block serves the host. A BUSY one runs its command when its steps are used up, and serves
the host until then (R50, R51, R66). -/
def advance (s : State) : Result :=
  if s.status.busy then
    match s.busyLeft with
    | 0 => runCommand s
    | n + 1 => State.hostTurn { s with busyLeft := n }
  else s.hostTurn

/-- One step: `rst` wins over everything (R271, R292); it is sampled once a step (assumption 11). -/
def stepOnce (s : State) : Result :=
  match s.rstPin with
  | [] => advance s
  | true :: rest => .next (State.assertReset { s with rstPin := rest })
  | false :: rest => advance { s with rstPin := rest }

/-- The state in which the next step runs the command of word `w`: `rst` low, the host's CMD write of `w` accepted by an idle
block (R260), and no step of waiting left. -/
def State.aboutToRun (s : State) (w : Word) : State := { s.start w with busyLeft := 0, rstPin := [] }

end Sys2Proof.Machine
end

