-- ==== Sys2Proof/Machine/Step.lean ====
section
/-! DEFINITION. The step of the machine, and the placing of a command word where the next step runs it. -/

namespace Sys2Proof.Machine

/-- One step of host and block. -/
def step (s : State) : Host.Outcome State Fault Refusal := stepOnce s

/-- The block fetches no instructions (R21): a command comes from a host write of CMD. This is the state right after the
accepted write of the word `w` of `nbits` bits, with the completion step next (assumption 10). -/
def State.withFetchWord (s : State) (nbits w : Nat) : State := s.aboutToRun (BitVec.ofNat 32 (w % 2 ^ nbits))

end Sys2Proof.Machine
end

