-- ==== Sys2Proof/Safety.lean ====
section
/-! DEFINITION. The words claims are stated in: which host transactions are inside the interface, how a command completed, what
it left alone, the invariants of the state, and the conditions under which a command runs. -/

namespace Sys2Proof.Machine

/-! ### The host keeps the interface -/

/-- A transaction inside the interface (R65, R68). -/
def HostReq.legal (p : Params) : HostReq → Prop
  | .wr off _ => off % 4 = 0 ∧ off ≤ 0xFC
  | .rd off => off % 4 = 0 ∧ off ≤ 0xFC
  | .portOther _ _ => False
  | .memw a _ => a < p.memBytes
  | .memr a => a < p.memBytes
  | .wait => True

/-- Every pending transaction is inside the interface: a safe run is one from such a state. -/
def State.hostLegal (s : State) : Prop := ∀ q ∈ s.hostQ, q.legal s.params

/-- The next step is the host's: `rst` is low, and no command is at its completion step. -/
def State.hostReady (s : State) : Prop := s.rstPin = [] ∧ (s.status.busy = true → s.busyLeft ≠ 0)

/-- What a step of the host leaves besides the transaction's effect: one step of waiting less for a running command, and
`rest` still to come. -/
def State.ticked (s : State) (rest : List HostReq) : State :=
  { s with busyLeft := if s.status.busy then s.busyLeft - 1 else s.busyLeft, hostQ := rest }

/-! ### How a command completed -/

/-- Completion without error and without a flag (R261): OUT_COUNT is `out`. -/
def State.completedWith (s t : State) (out : Nat) : Prop :=
  t.status = { s.status with busy := false, done := true } ∧ t.outCount = BitVec.ofNat 32 out ∧ t.errInfo = s.errInfo

/-- Completion by an error (R262): ERRCODE, ERR_INFO and OUT_COUNT. -/
def State.failedWith (s t : State) (code : Byte) (info out : Nat) : Prop :=
  t.status = { s.status with busy := false, done := true, err := true, errcode := code } ∧
  t.errInfo = BitVec.ofNat 32 info ∧ t.outCount = BitVec.ofNat 32 out

/-- The errors R263 lets a command raise while it runs a legal word. -/
def mayRaise : Instr → List Byte
  | .nop => []
  | .crcInit => []
  | .crcUpdate => [0x02]
  | .lzwDecode => [0x02, 0x03, 0x05, 0x07, 0x08]
  | .unfilter => [0x02, 0x03, 0x04, 0x05, 0x06, 0x09]
  | .filter _ => [0x02, 0x03, 0x04, 0x05, 0x06, 0x09]
  | .expand => [0x02, 0x03, 0x04, 0x05, 0x06, 0x0A]
  | .pack => [0x02, 0x03, 0x04, 0x05, 0x06, 0x0B]
  | .adam7Deinterlace => [0x02, 0x03, 0x04, 0x05, 0x06, 0x09, 0x0C]

/-! ### Frames -/

/-- Every byte of MEM outside `base .. base + n - 1` reads as before. -/
def State.sameOutside (s t : State) (base n : Nat) : Prop :=
  ∀ a, a < base ∨ base + n ≤ a → t.readByte a = s.readByte a

/-- Every byte of MEM reads as before. -/
def State.sameMem (s t : State) : Prop := ∀ a, t.readByte a = s.readByte a

/-- What no command writes (R85): parameters, CTRL, DROPPED, argument registers, latches, and the host's side. -/
structure State.SameHostSide (s t : State) : Prop where
  params   : t.params = s.params
  irqEn    : t.irqEn = s.irqEn
  dropped  : t.status.dropped = s.status.dropped
  args     : t.args = s.args
  command  : t.command = s.command
  latch    : t.latch = s.latch
  busyLeft : t.busyLeft = s.busyLeft
  draws    : t.draws = s.draws
  hostQ    : t.hostQ = s.hostQ
  answers  : t.answers = s.answers
  rstPin   : t.rstPin = s.rstPin

/-- The internal memories and registers of the LZW, Adam7 and PACK units are as before. -/
structure State.SameUnits (s t : State) : Prop where
  codeTable : t.codeTable = s.codeTable
  lzw       : t.lzw = s.lzw
  lineBuf   : t.lineBuf = s.lineBuf
  packRow   : t.packRow = s.packRow

/-- All of it, for a command that leaves CRC_STATE alone too. -/
def State.sameRest (s t : State) : Prop := State.SameHostSide s t ∧ t.crcState = s.crcState

/-! ### Invariants -/

/-- The canonical form of every memory. -/
def State.RamsCanonical (s : State) : Prop :=
  Memory.wf s.mem ∧ Ram.Rising s.codeTable ∧ Ram.Rising s.lineBuf

/-- Every memory lists only addresses that exist (R60): MEM_BYTES bytes, 4096 entries, LINE_BUF_BYTES bytes. -/
def State.RamsInBounds (s : State) : Prop :=
  (∀ c ∈ s.mem, c.1 < s.params.memBytes) ∧ (∀ c ∈ s.codeTable, c.1 < 4096) ∧ (∀ c ∈ s.lineBuf, c.1 < s.params.lineBufBytes)

/-- The invariants of STATUS (R29), with what R260 to R263 add: a running command has cleared results, and an error has one of
the twelve codes. -/
structure State.StatusOk (s : State) : Prop where
  busyClear   : s.status.busy = true →
    s.status.done = false ∧ s.status.err = false ∧ s.status.trunc = false ∧ s.status.short = false ∧
    s.status.eoi = false ∧ s.status.errcode = 0
  busyResults : s.status.busy = true → s.outCount = 0 ∧ s.errInfo = 0
  truncShort  : ¬ (s.status.trunc = true ∧ s.status.short = true)
  errAlone    : s.status.err = true → s.status.trunc = false ∧ s.status.short = false ∧ s.status.eoi = false
  errCode     : s.status.err = true → s.status.errcode ≠ 0
  codeRange   : s.status.errcode.toNat ≤ 12

/-! ### Conditions under which a command runs -/

/-- The region `base .. base + len - 1` is in range (R64). -/
def InMem (p : Params) (base len : Nat) : Prop := len = 0 ∨ base + len ≤ p.memBytes

/-- Two regions have no byte in common (R64). -/
def Apart (b1 n1 b2 n2 : Nat) : Prop := n1 = 0 ∨ n2 = 0 ∨ b1 + n1 ≤ b2 ∨ b2 + n2 ≤ b1

/-- SRC and DST are in range, apart, and long enough (R265 steps 4 to 7). -/
def Args.fits (L : Args) (p : Params) (srcNeeded dstNeeded : Nat) : Prop :=
  InMem p L.srcAddr.toNat L.srcLen.toNat ∧ InMem p L.dstAddr.toNat L.dstLen.toNat ∧
  Apart L.srcAddr.toNat L.srcLen.toNat L.dstAddr.toNat L.dstLen.toNat ∧
  srcNeeded ≤ L.srcLen.toNat ∧ dstNeeded ≤ L.dstLen.toNat

/-- PLTE and TRNS are in range and apart from DST (R265 steps 4 and 5, for palette images). -/
def Args.tablesFit (L : Args) (p : Params) : Prop :=
  InMem p L.plteAddr.toNat (3 * L.plteCount.toNat) ∧ InMem p L.trnsAddr.toNat L.trnsLen.toNat ∧
  Apart L.plteAddr.toNat (3 * L.plteCount.toNat) L.dstAddr.toNat L.dstLen.toNat ∧
  Apart L.trnsAddr.toNat L.trnsLen.toNat L.dstAddr.toNat L.dstLen.toNat

/-- The legal pairs (ct, d) (R191). -/
def LegalPair (ct d : Nat) : Prop :=
  (ct = 0 ∧ (d = 1 ∨ d = 2 ∨ d = 4 ∨ d = 8 ∨ d = 16)) ∨ (ct = 2 ∧ (d = 8 ∨ d = 16)) ∨
  (ct = 3 ∧ (d = 1 ∨ d = 2 ∨ d = 4 ∨ d = 8)) ∨ (ct = 4 ∧ (d = 8 ∨ d = 16)) ∨ (ct = 6 ∧ (d = 8 ∨ d = 16))

/-- CTYPE, FORMAT bits 7:0 (R33). -/
def Args.ctypeBits (L : Args) : Nat := L.format.toNat % 256

/-- DEPTH, FORMAT bits 15:8 (R33). -/
def Args.depthBits (L : Args) : Nat := L.format.toNat / 256 % 256

/-- FORMAT is legal for a command (R266). -/
def FormatLegal (c : FormatUser) (L : Args) : Prop :=
  L.format.toNat / 2 ^ 17 = 0 ∧ LegalPair L.ctypeBits L.depthBits ∧
  (L.format.toNat / 2 ^ 16 % 2 = 1 → L.ctypeBits = 0 ∨ L.ctypeBits = 2) ∧
  (c = .expand → L.ctypeBits = 3 → L.plteCount.toNat ≤ 256 ∧ L.trnsLen.toNat ≤ 256) ∧
  (c = .pack → L.depthBits ≠ 16)

/-- Samples per pixel of a colour type number (R11). -/
def samplesOf (ct : Nat) : Nat := if ct = 2 then 3 else if ct = 4 then 2 else if ct = 6 then 4 else 1

/-- Bits per pixel of the latched FORMAT (R11). -/
def Args.pixelBits (L : Args) : Nat := samplesOf L.ctypeBits * L.depthBits

/-- Bytes of `n` packed pixels (R11). -/
def Args.bytesFor (L : Args) (n : Nat) : Nat := (n * L.pixelBits + 7) / 8

/-- Bytes of a raw image (R160). -/
def Args.rawBytes (L : Args) : Nat := L.height.toNat * L.bytesFor L.width.toNat

/-- Bytes of a filtered stream (R160). -/
def Args.filteredBytes (L : Args) : Nat := L.height.toNat * (1 + L.bytesFor L.width.toNat)

/-- `alen` (R230 to R232): the sum over the passes `(sr, sc, ri, ci)`. -/
def Args.interlacedBytes (L : Args) : Nat :=
  ([(0, 0, 8, 8), (0, 4, 8, 8), (4, 0, 8, 4), (0, 2, 4, 4), (2, 0, 4, 2), (0, 1, 2, 2), (1, 0, 2, 1)].map
    (fun ((sr, sc, ri, ci) : Nat × Nat × Nat × Nat) =>
      let sw := (L.width.toNat - sc + (ci - 1)) / ci
      let sh := (L.height.toNat - sr + (ri - 1)) / ri
      if sw = 0 then 0 else sh * (1 + L.bytesFor sw))).sum

/-- A start check (R265): what it asks for, and the code and value it records where that fails (R263). -/
structure StartCheck where
  passes : Prop
  code   : Byte
  info   : Nat

/-- RANGE of SRC and DST, then OVERLAP (R265 steps 4 and 5). -/
def srcAndDstChecks (p : Params) (L : Args) : List StartCheck :=
  [⟨InMem p L.srcAddr.toNat L.srcLen.toNat, 0x02, 0⟩, ⟨InMem p L.dstAddr.toNat L.dstLen.toNat, 0x02, 1⟩,
   ⟨Apart L.srcAddr.toNat L.srcLen.toNat L.dstAddr.toNat L.dstLen.toNat, 0x03, 0⟩]

/-- RANGE of SRC, DST, PLTE and TRNS, then OVERLAP of SRC, PLTE and TRNS with DST, for EXPAND of a palette image. -/
def paletteChecks (p : Params) (L : Args) : List StartCheck :=
  [⟨InMem p L.srcAddr.toNat L.srcLen.toNat, 0x02, 0⟩, ⟨InMem p L.dstAddr.toNat L.dstLen.toNat, 0x02, 1⟩,
   ⟨InMem p L.plteAddr.toNat (3 * L.plteCount.toNat), 0x02, 2⟩, ⟨InMem p L.trnsAddr.toNat L.trnsLen.toNat, 0x02, 3⟩,
   ⟨Apart L.srcAddr.toNat L.srcLen.toNat L.dstAddr.toNat L.dstLen.toNat, 0x03, 0⟩,
   ⟨Apart L.plteAddr.toNat (3 * L.plteCount.toNat) L.dstAddr.toNat L.dstLen.toNat, 0x03, 2⟩,
   ⟨Apart L.trnsAddr.toNat L.trnsLen.toNat L.dstAddr.toNat L.dstLen.toNat, 0x03, 3⟩]

/-- SRC_SHORT and DST_SHORT (R265 steps 6 and 7). -/
def lengthChecks (L : Args) (srcNeeded dstNeeded : Nat) : List StartCheck :=
  [⟨srcNeeded ≤ L.srcLen.toNat, 0x05, srcNeeded⟩, ⟨dstNeeded ≤ L.dstLen.toNat, 0x06, dstNeeded⟩]

/-- FORMAT (R265 step 3). -/
def formatCheck (c : FormatUser) (L : Args) : StartCheck := ⟨FormatLegal c L, 0x04, L.format.toNat⟩

/-- The start checks of each command after the command word's, in the order of R265, with the lengths of R122, R161, R170, R195,
R210 and R233. -/
def startChecks (p : Params) (L : Args) : Instr → List StartCheck
  | .nop => []
  | .crcInit => []
  | .crcUpdate => [⟨InMem p L.srcAddr.toNat L.srcLen.toNat, 0x02, 0⟩]
  | .lzwDecode => srcAndDstChecks p L
  | .unfilter => formatCheck .unfilter L :: (srcAndDstChecks p L ++ lengthChecks L L.filteredBytes L.rawBytes)
  | .filter t =>
    ⟨t ≤ 4, 0x09, t⟩ :: formatCheck .filter L :: (srcAndDstChecks p L ++ lengthChecks L L.rawBytes L.filteredBytes)
  | .expand =>
    formatCheck .expand L :: ((if L.ctypeBits = 3 then paletteChecks p L else srcAndDstChecks p L) ++
      lengthChecks L L.rawBytes (4 * L.width.toNat * L.height.toNat))
  | .pack =>
    formatCheck .pack L :: (srcAndDstChecks p L ++
      lengthChecks L (L.width.toNat * L.height.toNat * samplesOf L.ctypeBits) L.rawBytes)
  | .adam7Deinterlace =>
    formatCheck .adam7 L :: (srcAndDstChecks p L ++ lengthChecks L L.interlacedBytes L.rawBytes ++
      [⟨L.bytesFor L.width.toNat ≤ p.lineBufBytes, 0x0C, L.bytesFor L.width.toNat⟩])

/-- The filter type byte of row `y` of the filtered stream in SRC (R160). -/
def State.rowType (s : State) (r : Raster) (y : Nat) : Nat := (s.readByte (r.src + y * (1 + r.bpl))).toNat

/-- Offset in the Adam7 stream of row `row` of pass `p` (R232). -/
def adam7Offset (r : Raster) (p row : Nat) : Nat :=
  loop (fun q n => n + passRows r.w r.h q * (1 + passBpl r.fmt r.w q)) p 0 + row * (1 + passBpl r.fmt r.w p)

/-- Pass rows of the Adam7 stream before row `row` of pass `p`. -/
def adam7RowsBefore (r : Raster) (p row : Nat) : Nat := loop (fun q n => n + passRows r.w r.h q) p 0 + row

/-- The filter type byte of row `row` of pass `p` of the Adam7 stream in SRC (R232). -/
def State.passType (s : State) (r : Raster) (p row : Nat) : Nat := (s.readByte (r.src + adam7Offset r p row)).toNat

/-- Bit `i` of the code bit string whose data bytes start at `base` (R126). -/
def bitAt (m : Memory) (base i : Nat) : Nat := (memRead m (base + i / 8)).toNat / 2 ^ (i % 8) % 2

/-- The code of `width` bits that starts at bit `pos`, least significant bit first (R126). -/
def codeAt (m : Memory) (base pos : Nat) : Nat → Nat
  | 0 => 0
  | width + 1 => bitAt m base pos + 2 * codeAt m base (pos + 1) width

/-! ### Samples in numbers -/

/-- Sample `j` of pixel `x` of a scanline whose byte `k` is `row k` (R192, R67): at depth 16 the byte at the lower address is the high
one; below depth 8 pixel 0 is in the high bits of the first byte. -/
def rowNumber (row : Nat → Byte) (f : PixFmt) (x j : Nat) : Nat :=
  if f.depth = 16 then
    256 * (row (2 * (x * f.ct.channels + j))).toNat + (row (2 * (x * f.ct.channels + j) + 1)).toNat
  else if f.depth = 8 then (row (x * f.ct.channels + j)).toNat
  else (row (x * f.depth / 8)).toNat / 2 ^ (8 - f.depth - x * f.depth % 8) % 2 ^ f.depth

/-- Sample `j` of pixel `x` of row `y` of the raw image at `base`. -/
def State.sampleAt (s : State) (base : Nat) (r : Raster) (y x j : Nat) : Nat :=
  rowNumber (fun k => s.readByte (base + y * r.bpl + k)) r.fmt x j

/-! ### LZW on whole data

A second reading of R123 to R135: the data bytes are taken out of their sub-blocks first, the dictionary holds whole strings. -/

/-- The data bytes of the sub-blocks in the bytes of SRC from offset `j` on, with `rem` bytes left of the current sub-block (R125);
and the offset of the first byte that is missing, or `none` after a zero-length sub-block. -/
def subBlockData : Nat → Nat → List Byte → List Byte × Option Nat
  | j, _, [] => ([], some j)
  | j, 0, n :: bs => if n.toNat = 0 then ([], none) else subBlockData (j + 1) n.toNat bs
  | j, rem + 1, b :: bs => (b :: (subBlockData (j + 1) rem bs).1, (subBlockData (j + 1) rem bs).2)

/-- Bytes as one number, least significant byte first: bit `i` is bit `i mod 8` of byte `i div 8` (R126). -/
def dataNumber : List Byte → Nat
  | [] => 0
  | b :: bs => b.toNat + 256 * dataNumber bs

/-- How decoding the data ends. -/
inductive LzwFinish where
  | endCode | exhausted | overrun
  | badCode (code nextCode : Nat)
deriving DecidableEq, Repr

/-- Where the decoding of the data stands: the bit position, the code width, the strings of the codes from `2 ^ m + 2` on, the
previous code's string, and the output so far. -/
structure LzwPoint where
  pos   : Nat
  width : Nat
  dict  : List (List Byte)
  prev  : Option (List Byte)
  out   : List Byte
deriving DecidableEq, Repr

/-- The start (R124). -/
def LzwPoint.start (m : Nat) : LzwPoint := { pos := 0, width := m + 1, dict := [], prev := none, out := [] }

/-- The next code to be assigned. -/
def LzwPoint.next (m : Nat) (z : LzwPoint) : Nat := 2 ^ m + 2 + z.dict.length

/-- The string of an ordinary code (R129 to R131): a root, the previous string and its first byte, or a dictionary string. -/
def LzwPoint.string (m : Nat) (z : LzwPoint) (code : Nat) : Option (List Byte) :=
  if code < 2 ^ m then some [BitVec.ofNat 8 code]
  else if code = z.next m then z.prev.map (fun s => s ++ s.take 1)
  else z.dict[code - (2 ^ m + 2)]?

/-- After the output of an ordinary code with string `s` (R133, R134): the previous string and the first byte of `s` become an
entry, and the width grows when the next code no longer fits it. -/
def LzwPoint.emit (m : Nat) (z : LzwPoint) (s : List Byte) : LzwPoint :=
  match z.prev with
  | none => { z with pos := z.pos + z.width, prev := some s, out := z.out ++ s }
  | some q =>
    if z.next m < 4096 then
      { pos := z.pos + z.width, prev := some s, out := z.out ++ s, dict := z.dict ++ [q ++ s.take 1]
        width := if 2 ^ z.width ≤ z.next m + 1 ∧ z.width < 12 then z.width + 1 else z.width }
    else { z with pos := z.pos + z.width, prev := some s, out := z.out ++ s }

/-- Decoding the data bytes `d` into at most `dstLen` bytes (R121, R126 to R135): the output and how it ends. A code takes at least
three bits, so `8 * d.length + 1` turns are enough. -/
def lzwReference (m : Nat) (d : List Byte) (dstLen : Nat) : Nat → LzwPoint → List Byte × LzwFinish
  | 0, z => (z.out, .exhausted)
  | n + 1, z =>
    let code := dataNumber d / 2 ^ z.pos % 2 ^ z.width
    if 8 * d.length < z.pos + z.width then (z.out, .exhausted)
    else if code = 2 ^ m then
      lzwReference m d dstLen n { z with pos := z.pos + z.width, width := m + 1, dict := [], prev := none }
    else if code = 2 ^ m + 1 then (z.out, .endCode)
    else match z.string m code with
      | none => (z.out, .badCode code (z.next m))
      | some s =>
        if dstLen < z.out.length + s.length then (z.out, .overrun)
        else lzwReference m d dstLen n (z.emit m s)

/-- The data of the LZW stream in SRC after the minimum-code-size byte. -/
def State.lzwData (s : State) : List Byte × Option Nat :=
  subBlockData 1 0 ((List.range (s.latch.srcLen.toNat - 1)).map (fun k => s.readByte (s.latch.srcAddr.toNat + 1 + k)))

/-- What decoding the stream in SRC gives. -/
def State.lzwResult (s : State) : List Byte × LzwFinish :=
  lzwReference (s.readByte s.latch.srcAddr.toNat).toNat s.lzwData.1 s.latch.dstLen.toNat (8 * s.lzwData.1.length + 1)
    (LzwPoint.start (s.readByte s.latch.srcAddr.toNat).toNat)

/-- STATUS, OUT_COUNT and ERR_INFO for each way to end (R129, R132, R135, R125). -/
def State.lzwCompletes (s t : State) : Prop :=
  let n := s.lzwResult.1.length
  let short := s.status.short || decide (n < s.latch.dstLen.toNat)
  t.outCount = BitVec.ofNat 32 n ∧
  match s.lzwResult.2 with
  | .endCode =>
    t.status = { s.status with busy := false, done := true, eoi := true, short := short } ∧ t.errInfo = s.errInfo
  | .overrun => t.status = { s.status with busy := false, done := true, trunc := true } ∧ t.errInfo = s.errInfo
  | .badCode code nextCode => State.failedWith s t 0x08 (code + nextCode * 2 ^ 16) n
  | .exhausted =>
    match s.lzwData.2 with
    | none => t.status = { s.status with busy := false, done := true, short := short } ∧ t.errInfo = s.errInfo
    | some j => State.failedWith s t 0x05 j n

/-! ### The register map -/

/-- R22, R24, R25, R30 to R40: what a read of each offset of the register map returns while BUSY = 0. -/
def registerMap (s : State) : List (Nat × Word) :=
  [(0x00, 0), (0x04, s.status.word), (0x08, if s.irqEn then 1 else 0), (0x0C, s.args.srcAddr), (0x10, s.args.srcLen),
   (0x14, s.args.dstAddr), (0x18, s.args.dstLen), (0x1C, s.args.width), (0x20, s.args.height), (0x24, s.args.format),
   (0x28, s.args.plteAddr), (0x2C, s.args.plteCount), (0x30, s.args.trnsAddr), (0x34, s.args.trnsLen),
   (0x38, s.args.tkey0.setWidth 32), (0x3C, s.args.tkey1.setWidth 32), (0x40, s.args.tkey2.setWidth 32),
   (0x44, s.crcState), (0x48, s.crcState ^^^ 0xFFFFFFFF), (0x4C, s.outCount), (0x50, s.errInfo)]

/-- R31 to R36: what a write of `v` at each offset of an argument register makes of them. -/
def argumentWrites (a : Args) (v : Word) : List (Nat × Args) :=
  [(0x0C, { a with srcAddr := v }), (0x10, { a with srcLen := v }), (0x14, { a with dstAddr := v }),
   (0x18, { a with dstLen := v }), (0x1C, { a with width := v }), (0x20, { a with height := v }),
   (0x24, { a with format := v }), (0x28, { a with plteAddr := v }), (0x2C, { a with plteCount := v }),
   (0x30, { a with trnsAddr := v }), (0x34, { a with trnsLen := v }), (0x38, { a with tkey0 := v.setWidth 16 }),
   (0x3C, { a with tkey1 := v.setWidth 16 }), (0x40, { a with tkey2 := v.setWidth 16 })]

/-! ### Other operands -/

/-- The state with other latched registers. -/
def State.withLatch (s : State) (L : Args) : State := { s with latch := L }

/-- The latches with another SRC region. -/
def Args.withSrc (L : Args) (addr len : Word) : Args := { L with srcAddr := addr, srcLen := len }

/-- The latches with another DST region. -/
def Args.withDst (L : Args) (addr len : Word) : Args := { L with dstAddr := addr, dstLen := len }

end Sys2Proof.Machine
end

