-- ==== Sys2Proof/Certificates/Slice0/Obligations.lean ====
section
/-! DEFINITION. What is claimed of the model: one proposition per claim. OBLIGATIONS.json gives each its rule of spec/. -/

open Sys2Proof Sys2Proof.Machine

/-! ### Command words -/

/-- Decoding and encoding agree (R80 to R82): a word decodes to a command exactly when the command is well-formed and the word is
its encoding. So no bit of a legal word is dropped, and every well-formed command has one word. -/
def Obligations.DecodeAndEncodeAgree : Prop :=
  ∀ (w : Word) (i : Instr), decode w = .ok i ↔ (i.wf = true ∧ encode i = w)

/-- R84: which words are ILLEGAL, what the others select, and the opcode table's masks and patterns. -/
def Obligations.DecodeIsTheOpcodeTable : Prop :=
  ∀ w : Word,
    ((∃ why, decode w = .error why) ↔
      (w.toNat / 128 ≠ 0 ∨ 9 ≤ w.toNat % 16 ∨ (w.toNat % 16 ≠ 5 ∧ w.toNat / 16 % 8 ≠ 0))) ∧
    (∀ i, decode w = .ok i → opcodeOf i = w.toNat % 16 ∧ (w.toNat % 16 = 5 → i = .filter (w.toNat / 16 % 8)) ∧
      rowOf i ∈ opcodeTable ∧ (rowOf i).selects w = true) ∧
    (∀ r ∈ opcodeTable, r.selects w = true → ∃ i, decode w = .ok i ∧ rowOf i = r) ∧
    (∀ r ∈ opcodeTable, ∀ q ∈ opcodeTable, r.selects w = true → q.selects w = true → r = q)

/-- A few words written out from R81 and R82 decode to their commands, and words of R83 do not decode. -/
def Obligations.WrittenWordsDecode : Prop :=
  decode 0x00000000 = .ok .nop ∧ decode 0x00000001 = .ok .lzwDecode ∧ decode 0x00000003 = .ok .crcUpdate ∧
  decode 0x00000045 = .ok (.filter 4) ∧ decode 0x00000075 = .ok (.filter 7) ∧ decode 0x00000008 = .ok .adam7Deinterlace ∧
  decode 0x00000009 = .error .reservedOpcode ∧ decode 0x00000011 = .error .strayFtype ∧
  decode 0x00000085 = .error .reservedBits

/-! ### Commands and steps -/

/-- At the completion step, with `rst` low, a step is the meaning of the latched word's command; and a word placed where the
machine runs its next command is run by the next step. That a command is one step, and the placing, are the model's reading of R74
and R24 (log entries 1 and 10). -/
def Obligations.StepRunsTheLatchedCommand : Prop :=
  (∀ (s : State) (i : Instr) (rest : List Bool), s.status.busy = true → s.busyLeft = 0 →
    (s.rstPin = false :: rest ∨ (s.rstPin = [] ∧ rest = [])) → decode s.command = .ok i →
    step s = exec i { s with rstPin := rest }) ∧
  (∀ (s : State) (w : Word) (i : Instr), decode w = .ok i →
    step (s.withFetchWord 32 w.toNat) = exec i (s.withFetchWord 32 w.toNat))

/-- R83: an illegal word written to CMD starts a command that completes with ILLEGAL_CMD and the word in ERR_INFO, with no other
effect. How many steps it stays BUSY is free, as for every command (R300, log entry 2). -/
def Obligations.IllegalWordCompletesWithError : Prop :=
  ∀ (s : State) (w : Word), s.rstPin = [] → s.status.busy = false → s.hostQ = [.wr 0x00 w] →
    (w.toNat / 128 ≠ 0 ∨ 9 ≤ w.toNat % 16 ∨ (w.toNat % 16 ≠ 5 ∧ w.toNat / 16 % 8 ≠ 0)) →
    ∃ t, Host.Core.run Sys2Proof.core (Config.commandSteps s.draws + 2) s = .next t ∧
      t.status = { busy := false, done := true, err := true, trunc := false, short := false, eoi := false
                   dropped := s.status.dropped, errcode := 0x01 } ∧
      t.errInfo = w ∧ t.outCount = 0 ∧ t.hostQ = [] ∧ t.answers = s.answers ∧ t.mem = s.mem ∧ t.crcState = s.crcState ∧
      t.args = s.args ∧ t.irqEn = s.irqEn ∧ t.params = s.params ∧ State.SameUnits s t

/-- The start actions (R260): an accepted write of CMD latches word and arguments, clears the results, sets BUSY, lowers `irq`,
and leaves DROPPED, CTRL, CRC_STATE and MEM. That the start draws the number of steps the command stays BUSY (the clause on
`busyLeft`) is the model's reading of R300, no start action of R260 (log entry 2). -/
def Obligations.CmdWriteStarts : Prop :=
  ∀ (s : State) (w : Word) (rest : List HostReq), s.rstPin = [] → s.status.busy = false → s.hostQ = .wr 0x00 w :: rest →
    ∃ t, step s = .next t ∧ t.command = w ∧ t.latch = s.args ∧
      t.status = { busy := true, done := false, err := false, trunc := false, short := false, eoi := false
                   dropped := s.status.dropped, errcode := 0 } ∧
      t.outCount = 0 ∧ t.errInfo = 0 ∧ t.irq = false ∧ t.irqEn = s.irqEn ∧ t.crcState = s.crcState ∧ t.mem = s.mem ∧
      t.args = s.args ∧ t.params = s.params ∧ t.hostQ = rest ∧ t.answers = s.answers ∧
      t.busyLeft = Config.commandSteps s.draws ∧ State.SameUnits s t

/-- A running command completes: after the steps it stays BUSY, with `rst` low and no host transaction, comes its meaning
(R300). Counting the free time in steps is the model's reading (log entry 2). -/
def Obligations.RunningCommandCompletes : Prop :=
  ∀ s : State, s.status.busy = true → s.rstPin = [] → s.hostQ = [] →
    (∀ i, decode s.command = .ok i →
      Host.Core.run Sys2Proof.core (s.busyLeft + 1) s = exec i { s with busyLeft := 0 }) ∧
    (∀ why, decode s.command = .error why →
      Host.Core.run Sys2Proof.core (s.busyLeft + 1) s = .next (State.raise { s with busyLeft := 0 } (.illegalCmd s.command)))

/-- Every command ends with DONE = 1 and BUSY = 0, and the interrupt line then shows IRQ_EN (R261, R262, R270). -/
def Obligations.CompletionRaisesIrq : Prop :=
  ∀ (i : Instr) (s t : State), exec i s = .next t →
    t.status.done = true ∧ t.status.busy = false ∧ t.irq = s.irqEn

/-- With every pending host transaction inside the interface, a step always answers a next state, in which that still holds.
The queue of transactions is the model's (log entry 10). -/
def Obligations.LegalHostNeverStops : Prop :=
  ∀ s : State, s.hostLegal → ∃ t, step s = .next t ∧ t.hostLegal

/-! ### The register port -/

/-- STATUS and the interrupt line. The places of its fields, with the reserved bits 0 (R25); a host write clears the bits 6:1
written as 1 and changes nothing else (R25, R27, R28), so clearing DONE lowers `irq`; and `irq` follows a write of IRQ_EN at once,
which changes nothing else (R30, R48, R270). -/
def Obligations.StatusRegister : Prop :=
  (∀ f : Status, f.word.toNat =
    (if f.busy then 1 else 0) + (if f.done then 2 else 0) + (if f.err then 4 else 0) + (if f.trunc then 8 else 0) +
    (if f.short then 16 else 0) + (if f.eoi then 32 else 0) + (if f.dropped then 64 else 0) + 256 * f.errcode.toNat) ∧
  (∀ (s : State) (v : Word) (rest : List HostReq), s.hostReady → s.hostQ = .wr 0x04 v :: rest →
    ∃ t, step s = .next t ∧ t = { s.ticked rest with status := t.status } ∧
      t.status.word = s.status.word &&& ~~~(v &&& 0x7E) ∧
      (t.irq = true ↔ s.irqEn = true ∧ s.status.done = true ∧ v.toNat / 2 % 2 = 0)) ∧
  (∀ (s : State) (v : Word) (rest : List HostReq), s.hostReady → s.hostQ = .wr 0x08 v :: rest →
    ∃ t, step s = .next t ∧ t = { s.ticked rest with irqEn := t.irqEn } ∧
      (t.irq = true ↔ v.toNat % 2 = 1 ∧ s.status.done = true))

/-- A read of an idle block returns what the register holds and changes nothing else (R22, R70). The map of R22 in offsets: CMD
reads 0 (R24), CRC_RESULT reads the inverted CRC_STATE (R39), and each other offset reads its own field. -/
def Obligations.IdleReadIsExact : Prop :=
  (∀ (s : State) (r : Reg) (rest : List HostReq), s.hostReady → s.status.busy = false → s.hostQ = .rd (offsetOf r) :: rest →
    step s = .next ((s.ticked rest).answer (.reg (offsetOf r) (s.regValue r)))) ∧
  (∀ (s : State) (off : Nat) (v : Word) (rest : List HostReq), s.hostReady → s.status.busy = false →
    (off, v) ∈ registerMap s → s.hostQ = .rd off :: rest →
    step s = .next { s with hostQ := rest, answers := s.answers ++ [.reg off v] })

/-- An idle write of a register is read back: whole for the plain argument registers and CRC_STATE, bits 15:0 for the keys,
bit 0 for CTRL, while a read-only register keeps its value; every other register keeps its value, but that CRC_RESULT follows
CRC_STATE (R22, R30 to R36, R38). In offsets: a write at the offset of an argument register, of CTRL or of CRC_STATE sets that one
field and changes nothing else. -/
def Obligations.WrittenRegisterReadsBack : Prop :=
  (∀ (s : State) (r : Reg) (v : Word) (rest : List HostReq), s.hostReady → s.status.busy = false →
    s.hostQ = .wr (offsetOf r) v :: rest → r ≠ .cmd → r ≠ .status →
    ∃ t, step s = .next t ∧ t.mem = s.mem ∧ t.status = s.status ∧
      t.regValue r =
        (match r with
        | .ctrl => v &&& 1
        | .tkey0 | .tkey1 | .tkey2 => v &&& 0xFFFF
        | .crcResult | .outCount | .errInfo => s.regValue r
        | _ => v) ∧
      (∀ q, q ≠ r → (q = .crcResult → r ≠ .crcState) → t.regValue q = s.regValue q)) ∧
  (∀ (s : State) (v : Word) (rest : List HostReq), s.hostReady → s.status.busy = false →
    (∀ off a, (off, a) ∈ argumentWrites s.args v → s.hostQ = .wr off v :: rest →
      step s = .next { s with hostQ := rest, args := a }) ∧
    (s.hostQ = .wr 0x08 v :: rest → step s = .next { s with hostQ := rest, irqEn := decide (v.toNat % 2 = 1) }) ∧
    (s.hostQ = .wr 0x44 v :: rest → step s = .next { s with hostQ := rest, crcState := v }))

/-- `WAIT` (R88): it reads STATUS, and comes again as long as that read shows BUSY = 1. One transaction a step is the
model's (log entry 10). -/
def Obligations.WaitPollsStatus : Prop :=
  ∀ (s : State) (rest : List HostReq), s.hostReady → s.hostQ = .wait :: rest →
    step s = .next ((s.ticked (if s.status.busy then .wait :: rest else rest)).answer (.reg 0x04 s.status.word))

/-- R42: an aligned offset of the port that R22 does not list reads 0 and ignores writes. -/
def Obligations.UnmappedOffsetsAreEmpty : Prop :=
  ∀ (s : State) (off : Nat) (v : Word) (rest : List HostReq), s.hostReady → off % 4 = 0 → 0x50 < off → off ≤ 0xFC →
    (s.hostQ = .rd off :: rest → step s = .next ((s.ticked rest).answer (.reg off 0))) ∧
    (s.hostQ = .wr off v :: rest → step s = .next (s.ticked rest))

/-- R50: host writes while BUSY = 1. -/
def Obligations.WritesWhileBusy : Prop :=
  ∀ (s : State) (v : Word) (n : Nat) (rest : List HostReq), s.StatusOk → s.rstPin = [] → s.status.busy = true →
    s.busyLeft = n + 1 →
    (∀ off, off = 0x00 ∨ off = 0x44 → s.hostQ = .wr off v :: rest →
      step s = .next { s with busyLeft := n, hostQ := rest, status := { s.status with dropped := true } }) ∧
    (s.hostQ = .wr 0x04 v :: rest →
      step s = .next { s with
        busyLeft := n, hostQ := rest, status := { s.status with dropped := s.status.dropped && !v.getLsbD 6 } }) ∧
    (s.hostQ = .wr 0x08 v :: rest → step s = .next { s with busyLeft := n, hostQ := rest, irqEn := v.getLsbD 0 }) ∧
    (∀ r, 0x0C ≤ offsetOf r → offsetOf r ≤ 0x40 → s.hostQ = .wr (offsetOf r) v :: rest →
      ∃ t, step s = .next t ∧ t = { s with busyLeft := n, hostQ := rest, args := t.args } ∧
        t.regValue r = (if 0x38 ≤ offsetOf r then v &&& 0xFFFF else v) ∧
        (∀ q, q ≠ r → t.regValue q = s.regValue q)) ∧
    (∀ off, off = 0x48 ∨ off = 0x4C ∨ off = 0x50 ∨ (0x50 < off ∧ off ≤ 0xFC ∧ off % 4 = 0) →
      s.hostQ = .wr off v :: rest → step s = .next { s with busyLeft := n, hostQ := rest })

/-- R51: host reads while BUSY = 1 are exact, but for CRC_STATE, CRC_RESULT, OUT_COUNT and ERR_INFO, whose value is a fresh free
draw. -/
def Obligations.ReadsWhileBusy : Prop :=
  ∀ (s : State) (r : Reg) (n : Nat) (rest : List HostReq), s.rstPin = [] → s.status.busy = true → s.busyLeft = n + 1 →
    s.hostQ = .rd (offsetOf r) :: rest →
    (r = .crcState ∨ r = .crcResult ∨ r = .outCount ∨ r = .errInfo →
      step s = .next { s with
        busyLeft := n, hostQ := rest, draws := s.draws + 1
        answers := s.answers ++ [.reg (offsetOf r) (Config.busyRead s.draws)] }) ∧
    (r ≠ .crcState → r ≠ .crcResult → r ≠ .outCount → r ≠ .errInfo →
      step s = .next { s with
        busyLeft := n, hostQ := rest, answers := s.answers ++ [.reg (offsetOf r) (s.regValue r)] })

/-- The command issue hazard (R301): a second CMD write is dropped while the first command is BUSY, and is accepted once it has
completed; the length of BUSY is free. -/
def Obligations.CommandIssueHazard : Prop :=
  ∀ (s : State) (a b : Word) (rest : List HostReq), s.rstPin = [] → s.status.busy = false →
    s.hostQ = .wr 0x00 a :: .wr 0x00 b :: rest →
    ∃ t, step s = .next t ∧ t.command = a ∧ t.hostQ = .wr 0x00 b :: rest ∧
      (∀ n, ∃ u, step { t with busyLeft := n + 1 } = .next u ∧ u.status.dropped = true ∧ u.status.busy = true ∧
        u.command = a ∧ u.latch = t.latch ∧ u.hostQ = rest) ∧
      (∀ u, step { t with busyLeft := 0 } = .next u →
        u.status.busy = false ∧ u.hostQ = .wr 0x00 b :: rest ∧
        ∃ v, step u = .next v ∧ v.command = b ∧ v.status.busy = true ∧ v.status.dropped = u.status.dropped)

/-! ### The MEM port -/

/-- R66: a host MEM access waits while BUSY = 1, also through the completion step, and then acts on MEM as it stands. -/
def Obligations.MemAccessHeldWhileBusy : Prop :=
  ∀ (s : State) (q : HostReq) (rest : List HostReq) (a : Nat) (b : Byte), s.rstPin = [] → s.hostQ = q :: rest →
    (q = .memw a b ∨ q = .memr a) → a < s.params.memBytes →
    (s.status.busy = true → ∀ t, step s = .next t → t.hostQ = s.hostQ ∧ t.answers = s.answers ∧
      (s.busyLeft ≠ 0 → t = { s with busyLeft := s.busyLeft - 1 })) ∧
    (s.status.busy = false → q = .memr a →
      step s = .next { s with hostQ := rest, answers := s.answers ++ [.mem a (s.readByte a)] }) ∧
    (s.status.busy = false → q = .memw a b →
      ∃ t, step s = .next t ∧ t = { s with hostQ := rest, mem := t.mem } ∧ t.readByte a = b ∧ State.sameOutside s t a 1)

/-- R65, R68: the accesses inside the interface are served and those outside it are refused. -/
def Obligations.OutsideTheInterfaceIsRefused : Prop :=
  ∀ (s : State) (rest : List HostReq), s.hostReady →
    (∀ off v, s.hostQ = .wr off v :: rest →
      (off % 4 = 0 ∧ off ≤ 0xFC → ∃ t, step s = .next t ∧ t.hostQ = rest) ∧
      (off % 4 ≠ 0 ∨ 0xFC < off → step s = .refused (.portOffset off))) ∧
    (∀ off, s.hostQ = .rd off :: rest →
      (off % 4 = 0 ∧ off ≤ 0xFC → ∃ t v, step s = .next t ∧ t.hostQ = rest ∧ t.answers = s.answers ++ [.reg off v]) ∧
      (off % 4 ≠ 0 ∨ 0xFC < off → step s = .refused (.portOffset off))) ∧
    (∀ off bytes, s.hostQ = .portOther off bytes :: rest → step s = .refused (.portWidth off bytes)) ∧
    (∀ a b, s.status.busy = false → s.hostQ = .memw a b :: rest →
      (a < s.params.memBytes → ∃ t, step s = .next t ∧ t.readByte a = b ∧ State.sameOutside s t a 1) ∧
      (s.params.memBytes ≤ a → step s = .refused (.memOutside a))) ∧
    (∀ a, s.status.busy = false → s.hostQ = .memr a :: rest →
      (a < s.params.memBytes → ∃ t, step s = .next t ∧ t.answers = s.answers ++ [.mem a (s.readByte a)]) ∧
      (s.params.memBytes ≤ a → step s = .refused (.memOutside a)))

/-! ### Reset -/

/-- R23: after power-on, and after `rst`, every register holds the reset column of R22. -/
def Obligations.ResetRegisterValues : Prop :=
  (∀ r, State.reset.regValue r = if r = .crcState then 0xFFFFFFFF else 0) ∧
  (∀ (s : State) (rest : List Bool), s.rstPin = true :: rest →
    ∃ t, step s = .next t ∧ ∀ r, t.regValue r = if r = .crcState then 0xFFFFFFFF else 0)

/-- R290 to R292: `rst` wins over the command (R271). MEM keeps its bytes, but for the DST region of a command it abandons, whose
bytes are free draws; a held MEM access is still to come (R292). That every other host transaction waits too while `rst` is
high is the model's choice (log entry 11), and that no answer is lost is its form of the host (log entry 10). That a DST region which would fail the start checks takes free draws
too, as far as it exists, is the model's reading (log entry 6). -/
def Obligations.RstAbandonsTheCommand : Prop :=
  ∀ (s : State) (rest : List Bool), s.rstPin = true :: rest →
    ∃ t, step s = .next t ∧ t.status.busy = false ∧ t.status.done = false ∧ t.irq = false ∧ t.crcState = 0xFFFFFFFF ∧
      t.hostQ = s.hostQ ∧ t.answers = s.answers ∧ t.rstPin = rest ∧ t.params = s.params ∧
      (s.status.busy = false → t.mem = s.mem) ∧
      (∀ why, decode s.command = .error why → t.mem = s.mem) ∧
      (∀ i, s.status.busy = true → decode s.command = .ok i → i = .nop ∨ i = .crcInit ∨ i = .crcUpdate → t.mem = s.mem) ∧
      (∀ i a, s.status.busy = true → decode s.command = .ok i → i ≠ .nop → i ≠ .crcInit → i ≠ .crcUpdate →
        t.readByte a =
          if s.latch.dstAddr.toNat ≤ a ∧ a < s.latch.dstAddr.toNat + s.latch.dstLen.toNat ∧ a < s.params.memBytes
          then Config.abandonedByte s.draws a else s.readByte a)

/-! ### Invariants -/

/-- The invariants hold after power-on. -/
def Obligations.ResetHasTheInvariants : Prop :=
  State.reset.RamsCanonical ∧ State.reset.RamsInBounds ∧ State.reset.StatusOk

/-- Every step keeps the canonical form of every memory: listed addresses strictly rise. The sparse lists are the model's form of the
memories of R60 (log entries 4 and 8). -/
def Obligations.StepKeepsMemoriesCanonical : Prop :=
  ∀ s t : State, s.RamsCanonical → step s = .next t → t.RamsCanonical

/-- Every step keeps every memory within its size: no command writes past MEM, the code table or the line buffer (R60, R62, R63,
R133, R234). The parameters of R8 never change. -/
def Obligations.StepKeepsMemoriesInBounds : Prop :=
  ∀ s t : State, step s = .next t → t.params = s.params ∧ (s.RamsInBounds → t.RamsInBounds)

/-- Every step keeps the invariants of STATUS (R29). -/
def Obligations.StepKeepsStatusInvariant : Prop :=
  ∀ s t : State, s.StatusOk → step s = .next t → t.StatusOk

/-! ### All commands -/

/-- What commands leave alone (R85): the host's side for every command, CRC_STATE for all but the CRC commands, the code table and
LZW registers for all but LZW_DECODE, the line buffer for all but ADAM7_DEINTERLACE, the row register for all but PACK. -/
def Obligations.CommandFrame : Prop :=
  ∀ (i : Instr) (s t : State), exec i s = .next t →
    State.SameHostSide s t ∧
    (i ≠ .crcInit → i ≠ .crcUpdate → t.crcState = s.crcState) ∧
    (i ≠ .lzwDecode → t.codeTable = s.codeTable ∧ t.lzw = s.lzw) ∧
    (i ≠ .adam7Deinterlace → t.lineBuf = s.lineBuf) ∧
    (i ≠ .pack → t.packRow = s.packRow) ∧
    (i ≠ .lzwDecode → t.status.trunc = s.status.trunc ∧ t.status.short = s.status.short ∧ t.status.eoi = s.status.eoi)

/-- No command changes a byte of MEM outside its DST region; a command without one changes no byte (R61, R63, R267). -/
def Obligations.CommandsWriteOnlyDst : Prop :=
  ∀ (i : Instr) (s t : State), exec i s = .next t →
    ∀ a, (i = .nop ∨ i = .crcInit ∨ i = .crcUpdate ∨ a < s.latch.dstAddr.toNat ∨
        s.latch.dstAddr.toNat + s.latch.dstLen.toNat ≤ a) →
      t.readByte a = s.readByte a

/-- A command's results depend on no byte of MEM outside its SRC, DST, PLTE and TRNS regions (R267): two states that differ in
such bytes alone complete alike, and their DST regions then read alike. -/
def Obligations.CommandsReadOnlyTheirRegions : Prop :=
  ∀ (i : Instr) (s t u : State) (m : Memory),
    (∀ a, (s.latch.srcAddr.toNat ≤ a ∧ a < s.latch.srcAddr.toNat + s.latch.srcLen.toNat) ∨
        (s.latch.dstAddr.toNat ≤ a ∧ a < s.latch.dstAddr.toNat + s.latch.dstLen.toNat) ∨
        (i = .expand ∧ s.latch.ctypeBits = 3 ∧ s.latch.plteAddr.toNat ≤ a ∧ a < s.latch.plteAddr.toNat + 3 * s.latch.plteCount.toNat) ∨
        (i = .expand ∧ s.latch.ctypeBits = 3 ∧ s.latch.trnsAddr.toNat ≤ a ∧ a < s.latch.trnsAddr.toNat + s.latch.trnsLen.toNat) →
      memRead m a = memRead s.mem a) →
    exec i s = .next t → exec i (s.withMem m) = .next u →
    u.status = t.status ∧ u.outCount = t.outCount ∧ u.errInfo = t.errInfo ∧ u.crcState = t.crcState ∧
    ∀ a, s.latch.dstAddr.toNat ≤ a → a < s.latch.dstAddr.toNat + s.latch.dstLen.toNat → u.readByte a = t.readByte a

/-- A command that ends by an error records a code R263 allows it. -/
def Obligations.ErrorsAreTheCommandsOwn : Prop :=
  ∀ (i : Instr) (s t : State), exec i s = .next t → s.status.err = false → t.status.err = true →
    t.status.errcode ∈ mayRaise i

/-- FORMAT is accepted exactly under the conditions of R266, and what is accepted is its fields: CTYPE, bits 7:0, by the names of
R191, DEPTH, bits 15:8, and TRNS_EN, bit 16 (R33). The quantities of R11 follow from them. -/
def Obligations.FormatAcceptedIffLegal : Prop :=
  (∀ (c : FormatUser) (L : Args) (f : PixFmt), formatFor c L = some f ↔
    FormatLegal c L ∧
    ((f.ct = .gray ∧ L.format.toNat % 256 = 0) ∨ (f.ct = .rgb ∧ L.format.toNat % 256 = 2) ∨
      (f.ct = .palette ∧ L.format.toNat % 256 = 3) ∨ (f.ct = .grayAlpha ∧ L.format.toNat % 256 = 4) ∨
      (f.ct = .rgba ∧ L.format.toNat % 256 = 6)) ∧
    f.depth = L.format.toNat / 2 ^ 8 % 256 ∧ (f.trnsEn = true ↔ L.format.toNat / 2 ^ 16 % 2 = 1)) ∧
  (∀ (c : FormatUser) (L : Args) (f : PixFmt), formatFor c L = some f →
    f.ct.channels = samplesOf L.ctypeBits ∧ f.bytesPP = (L.pixelBits + 7) / 8 ∧ ∀ w, f.bpl w = L.bytesFor w)

/-- R64: which regions are in range; two regions overlap exactly when they share an address, so an empty region never does. -/
def Obligations.RegionsOfR64 : Prop :=
  (∀ (p : Params) (r : Region), r.inRange p = true ↔ ∀ a, r.base ≤ a → a < r.base + r.len → a < p.memBytes) ∧
  (∀ r q : Region, r.overlaps q = true ↔
    ∃ a, (r.base ≤ a ∧ a < r.base + r.len) ∧ (q.base ≤ a ∧ a < q.base + q.len))

/-- The start checks of every command, in the order of R265: the first that fails is the error recorded, with its code and its
value modulo 2^32 (R263), and MEM, CRC_STATE, OUT_COUNT and the internal memories are as before. `startChecks` lists them in
numbers: FTYPE, FORMAT, RANGE and OVERLAP of each declared region (R267), the needed lengths, LINE_BUF. -/
def Obligations.StartChecksInOrder : Prop :=
  ∀ (s : State) (i : Instr) (before after : List StartCheck) (c : StartCheck),
    startChecks s.params s.latch i = before ++ c :: after → (∀ k ∈ before, k.passes) → ¬ c.passes →
    ∃ t, exec i s = .next t ∧ State.failedWith s t c.code c.info s.outCount.toNat ∧ t.mem = s.mem ∧
      State.sameRest s t ∧ State.SameUnits s t

/-! ### NOP -/

/-- R250: NOP completes with OUT_COUNT 0 and changes nothing else; started, it leaves STATUS with DONE and the old DROPPED. -/
def Obligations.NopCompletes : Prop :=
  encode .nop = 0 ∧
  (∀ s : State, exec .nop s = .next { s with outCount := 0, status := { s.status with busy := false, done := true } }) ∧
  (∀ s : State, ∃ t, step (s.withFetchWord 32 0) = .next t ∧ t.status.word = (if s.status.dropped then 0x42 else 0x02) ∧
    t.outCount = 0 ∧ t.errInfo = 0 ∧ t.crcState = s.crcState ∧ t.mem = s.mem ∧ t.args = s.args ∧ t.irq = s.irqEn)

/-! ### CRC32 -/

/-- R103: CRC_INIT sets CRC_STATE, so CRC_RESULT reads 0, and doing it again changes nothing. -/
def Obligations.CrcInitCompletes : Prop :=
  encode .crcInit = 0x00000002 ∧ ∀ s : State, ∃ t, exec .crcInit s = .next t ∧
    t = { s with crcState := 0xFFFFFFFF, outCount := 0, status := { s.status with busy := false, done := true } } ∧
    t.regValue .crcResult = 0 ∧ exec .crcInit t = .next t

/-- R104: CRC_UPDATE folds the bytes of SRC in order into CRC_STATE; when SRC is out of range it ends by RANGE and CRC_STATE is
unchanged. No byte of MEM changes. -/
def Obligations.CrcUpdateFoldsSrc : Prop :=
  encode .crcUpdate = 0x00000003 ∧ ∀ s : State,
    (InMem s.params s.latch.srcAddr.toNat s.latch.srcLen.toNat →
      ∃ t, exec .crcUpdate s = .next t ∧ State.completedWith s t s.latch.srcLen.toNat ∧ State.SameHostSide s t ∧
        State.SameUnits s t ∧ t.mem = s.mem ∧
        t.crcState = ((List.range s.latch.srcLen.toNat).map (fun k => s.readByte (s.latch.srcAddr.toNat + k))).foldl crcStep
          s.crcState) ∧
    (¬ InMem s.params s.latch.srcAddr.toNat s.latch.srcLen.toNat →
      ∃ t, exec .crcUpdate s = .next t ∧ State.failedWith s t 0x02 0 s.outCount.toNat ∧ State.SameHostSide s t ∧
        State.SameUnits s t ∧ t.mem = s.mem ∧ t.crcState = s.crcState)

/-- R102: feeding a sequence in two CRC_UPDATE commands gives the CRC_STATE of feeding it in one. -/
def Obligations.CrcUpdateMayBeSplit : Prop :=
  ∀ (s : State) (a n1 n2 : Nat), a + n1 + n2 ≤ s.params.memBytes → a + n1 < 2 ^ 32 → n1 + n2 < 2 ^ 32 →
    ∃ t t1 t2,
      exec .crcUpdate (s.withLatch (s.latch.withSrc (BitVec.ofNat 32 a) (BitVec.ofNat 32 (n1 + n2)))) = .next t ∧
      exec .crcUpdate (s.withLatch (s.latch.withSrc (BitVec.ofNat 32 a) (BitVec.ofNat 32 n1))) = .next t1 ∧
      exec .crcUpdate (t1.withLatch (s.latch.withSrc (BitVec.ofNat 32 (a + n1)) (BitVec.ofNat 32 n2))) = .next t2 ∧
      t2.crcState = t.crcState ∧ t.status.err = s.status.err ∧ t2.status.err = s.status.err

/-- The table-driven byte step is eight shift-and-xor steps of the reflected polynomial 0xEDB88320 (R100, R101); and the table has
the check values of R100. -/
def Obligations.CrcStepIsBitwise : Prop :=
  (∀ (c : Word) (b : Byte),
    crcStep c b =
      loop (fun _ x => if x.getLsbD 0 then 0xEDB88320#32 ^^^ (x >>> 1) else x >>> 1) 8 (c ^^^ b.setWidth 32)) ∧
  crcTable 0 = 0x00000000 ∧ crcTable 1 = 0x77073096 ∧ crcTable 2 = 0xEE0E612C ∧ crcTable 128 = 0xEDB88320 ∧
  crcTable 255 = 0x2D02EF8D

/-! ### LZW -/

/-- R138: LZW_DECODE always completes, whatever SRC holds. -/
def Obligations.LzwDecodeAlwaysCompletes : Prop :=
  ∀ s : State, ∃ t, exec .lzwDecode s = .next t

/-- LZW_DECODE decodes every stream of one sub-block that has a clear code before each of `n` root codes and ends with the end
code: DST receives the roots, EOI is set, SHORT tells whether DST is left unfilled (R121 to R135). -/
def Obligations.LzwDecodesClearedRoots : Prop :=
  ∀ (s : State) (m n : Nat), s.latch.fits s.params (2 + (s.readByte (s.latch.srcAddr.toNat + 1)).toNat) n →
    m = (s.readByte s.latch.srcAddr.toNat).toNat → 2 ≤ m → m ≤ 8 →
    (2 * n + 1) * (m + 1) ≤ 8 * (s.readByte (s.latch.srcAddr.toNat + 1)).toNat →
    (∀ k, k < n → codeAt s.mem (s.latch.srcAddr.toNat + 2) (2 * k * (m + 1)) (m + 1) = 2 ^ m) →
    (∀ k, k < n → codeAt s.mem (s.latch.srcAddr.toNat + 2) ((2 * k + 1) * (m + 1)) (m + 1) < 2 ^ m) →
    codeAt s.mem (s.latch.srcAddr.toNat + 2) (2 * n * (m + 1)) (m + 1) = 2 ^ m + 1 →
    ∃ t, exec .lzwDecode s = .next t ∧
      t.status = { s.status with
        busy := false, done := true, eoi := true, short := s.status.short || decide (n < s.latch.dstLen.toNat) } ∧
      t.outCount = BitVec.ofNat 32 n ∧ t.errInfo = s.errInfo ∧ State.sameOutside s t s.latch.dstAddr.toNat n ∧
      State.sameRest s t ∧
      ∀ k, k < n → (t.readByte (s.latch.dstAddr.toNat + k)).toNat =
        codeAt s.mem (s.latch.srcAddr.toNat + 2) ((2 * k + 1) * (m + 1)) (m + 1)

/-- What LZW_DECODE writes and how it ends, for every stream, once its start checks pass and the minimum code size is 2..8: DST
receives what the reference decoding of the data gives (table strings, the code equal to the next one, code width growth, any
number of sub-blocks), and STATUS, OUT_COUNT and ERR_INFO tell how it ended (R125, R129 to R135). And the outcomes of R141, with the
flags cleared by its start: the overflowing code is unwritten, no byte past the OUT_COUNT bytes of DST changes. -/
def Obligations.LzwOutcomes : Prop :=
  (∀ s : State, s.latch.fits s.params 0 0 → 1 ≤ s.latch.srcLen.toNat → 2 ≤ (s.readByte s.latch.srcAddr.toNat).toNat →
    (s.readByte s.latch.srcAddr.toNat).toNat ≤ 8 →
    ∃ t, exec .lzwDecode s = .next t ∧ s.lzwCompletes t ∧
      State.sameOutside s t s.latch.dstAddr.toNat s.lzwResult.1.length ∧ State.sameRest s t ∧
      ∀ k, k < s.lzwResult.1.length → t.readByte (s.latch.dstAddr.toNat + k) = s.lzwResult.1.getD k 0) ∧
  (∀ s t : State, s.latch.fits s.params 0 0 → s.status.busy = true → s.StatusOk → exec .lzwDecode s = .next t →
    State.sameOutside s t s.latch.dstAddr.toNat t.outCount.toNat ∧ t.outCount.toNat ≤ s.latch.dstLen.toNat ∧
    t.status.done = true ∧ t.status.busy = false ∧ State.sameRest s t ∧
    ((t.status.err = false ∧ t.status.errcode = 0 ∧ t.errInfo = 0 ∧ t.status.trunc = false ∧
        (t.status.short = true ↔ t.outCount.toNat < s.latch.dstLen.toNat)) ∨
     (t.status.err = false ∧ t.status.errcode = 0 ∧ t.errInfo = 0 ∧ t.status.trunc = true ∧ t.status.short = false ∧
        t.status.eoi = false) ∨
     (t.status.err = true ∧ t.status.errcode = 0x07 ∧ t.status.trunc = false ∧ t.status.short = false ∧
        t.status.eoi = false ∧ t.outCount = 0 ∧ State.sameMem s t) ∨
     (t.status.err = true ∧ (t.status.errcode = 0x08 ∨ t.status.errcode = 0x05) ∧ t.status.trunc = false ∧
        t.status.short = false ∧ t.status.eoi = false)))

/-- How LZW_DECODE meets the first bytes of SRC: an empty SRC raises SRC_SHORT(0) (R137) and a minimum code size outside 2..8
raises LZW_MINCODE (R123), before any byte of DST is written; a zero-length first sub-block ends the stream at once with no EOI,
nothing written, and SHORT if DST is not empty (R125, R137). -/
def Obligations.LzwFirstBytes : Prop :=
  ∀ s : State, s.latch.fits s.params 0 0 →
    (s.latch.srcLen.toNat = 0 →
      ∃ t, exec .lzwDecode s = .next t ∧ State.failedWith s t 0x05 0 0 ∧ t.mem = s.mem ∧ State.sameRest s t) ∧
    (s.latch.srcLen.toNat ≠ 0 →
      (s.readByte s.latch.srcAddr.toNat).toNat < 2 ∨ 8 < (s.readByte s.latch.srcAddr.toNat).toNat →
      ∃ t, exec .lzwDecode s = .next t ∧
        State.failedWith s t 0x07 (s.readByte s.latch.srcAddr.toNat).toNat 0 ∧ t.mem = s.mem ∧ State.sameRest s t) ∧
    (2 ≤ s.latch.srcLen.toNat → 2 ≤ (s.readByte s.latch.srcAddr.toNat).toNat →
      (s.readByte s.latch.srcAddr.toNat).toNat ≤ 8 → s.readByte (s.latch.srcAddr.toNat + 1) = 0 →
      ∃ t, exec .lzwDecode s = .next t ∧
        t.status = { s.status with
          busy := false, done := true, short := s.status.short || decide (0 < s.latch.dstLen.toNat) } ∧
        t.outCount = 0 ∧ t.errInfo = s.errInfo ∧ t.mem = s.mem ∧ State.sameRest s t)

/-- A new table entry stands for the previous code's string and one more byte, and no older code's string changes (R130, R133).
`ordinary` are the codes that are neither clear nor end: the only ones with a string. -/
def Obligations.LzwEntryExtendsThePreviousCode : Prop :=
  ∀ (table : Ram 20) (z : Lzw) (k : Byte) (prev n : Nat) (out : List Byte),
    let ordinary := fun c : Nat => c < z.clearCode ∨ z.eoiCode < c
    z.prevCode = some prev → ordinary prev → prev < z.nextCode → z.nextCode < 4096 → z.clearCode ≤ z.nextCode →
    (∀ c, z.eoiCode < c → c < z.nextCode →
      (tableEntry table c).toNat / 2 ^ 8 < c ∧ ordinary ((tableEntry table c).toNat / 2 ^ 8)) →
    expandCode table z.clearCode n prev = some out →
    expandCode (addEntry table z k).1 z.clearCode (n + 1) z.nextCode = some (out ++ [k]) ∧
    ∀ c j, c < z.nextCode → ordinary c →
      expandCode (addEntry table z k).1 z.clearCode j c = expandCode table z.clearCode j c

/-- The quantities of the running decoder fit the registers of R46, and its positions stay inside SRC and DST (R126, R133). -/
def Obligations.LzwRegistersFit : Prop :=
  ∀ (src dst : Region) (m n : Nat) (table : Ram 20) (mem : Memory), 2 ≤ m → m ≤ 8 → 1 ≤ src.len →
    let z := (lzwLoop src dst n ⟨Lzw.init m, table, mem⟩).1.z
    z.minCode = m ∧ z.clearCode = 2 ^ m ∧ z.eoiCode = 2 ^ m + 1 ∧ z.eoiCode < z.nextCode ∧ z.nextCode ≤ 4096 ∧
    m + 1 ≤ z.codeSize ∧ z.codeSize ≤ 12 ∧ z.bitcnt ≤ 19 ∧ z.bitbuf < 2 ^ 19 ∧ z.subRem ≤ 255 ∧ z.inPos ≤ src.len ∧
    z.outPos ≤ dst.len ∧ (∀ c, z.prevCode = some c → c < 4096 ∧ c < z.nextCode)

/-! ### Scanline filters -/

/-- R165, R166: the Paeth predictor returns the neighbour nearest to `a + b - c`, preferring a, then b, then c. With it, in numbers,
the other four predictors by their type numbers (R160, R164: Average from the untruncated sum), and the neighbours that all five are
taken of (R163: the left ones `bytesPP` bytes away, and 0 outside the image). -/
def Obligations.PaethPicksTheNearest : Prop :=
  (∀ a b c : Byte,
    let p : Int := (a.toNat : Int) + (b.toNat : Int) - (c.toNat : Int)
    (|p - a.toNat| ≤ |p - b.toNat| → |p - a.toNat| ≤ |p - c.toNat| → paethOf a b c = a) ∧
    (|p - b.toNat| < |p - a.toNat| → |p - b.toNat| ≤ |p - c.toNat| → paethOf a b c = b) ∧
    (|p - c.toNat| < |p - a.toNat| → |p - c.toNat| < |p - b.toNat| → paethOf a b c = c) ∧
    (paethOf a b c = a ∨ paethOf a b c = b ∨ paethOf a b c = c)) ∧
  (∀ (code : Nat) (ft : FilterType) (n : Neighbours), FilterType.ofCode code = some ft →
    (code = 0 → (ft.pred n).toNat = 0) ∧ (code = 1 → ft.pred n = n.a) ∧ (code = 2 → ft.pred n = n.b) ∧
    (code = 3 → (ft.pred n).toNat = (n.a.toNat + n.b.toNat) / 2) ∧ (code = 4 → ft.pred n = paethOf n.a n.b n.c)) ∧
  (∀ code, (∃ ft, FilterType.ofCode code = some ft) ↔ code ≤ 4) ∧
  (∀ (raw : Nat → Nat → Byte) (bytesPP y x : Nat),
    (∀ k, k < bytesPP → (neighbours raw bytesPP y k).a = 0 ∧ (neighbours raw bytesPP y k).c = 0) ∧
    (neighbours raw bytesPP y (x + bytesPP)).a = raw y x ∧
    (neighbours raw bytesPP 0 x).b = 0 ∧ (neighbours raw bytesPP 0 x).c = 0 ∧
    (neighbours raw bytesPP (y + 1) x).b = raw y x ∧
    (neighbours raw bytesPP (y + 1) (x + bytesPP)).c = raw y x)

/-- R161: with legal filter types, UNFILTER gives every byte of DST the filtered byte plus the predictor of its raw neighbours,
and changes no other byte. -/
def Obligations.UnfilterReconstructs : Prop :=
  ∀ (s : State) (f : PixFmt), formatFor .unfilter s.latch = some f →
    let r := s.latch.raster f
    s.latch.fits s.params r.filteredLen r.rawLen → (∀ y, y < r.h → s.rowType r y ≤ 4) →
    ∃ t, exec .unfilter s = .next t ∧ State.completedWith s t r.h ∧ State.sameOutside s t r.dst r.rawLen ∧
      State.sameRest s t ∧ State.SameUnits s t ∧
      ∀ y x, y < r.h → x < r.bpl → ∃ ft, FilterType.ofCode (s.rowType r y) = some ft ∧
        t.readByte (r.dst + y * r.bpl + x) =
          s.readByte (r.src + y * (1 + r.bpl) + 1 + x) + ft.pred (neighbours (rawByte t.mem r.dst r.bpl) f.bytesPP y x)

/-- R161: the first row whose type byte exceeds 4 ends UNFILTER by FILTER_TYPE; the rows before it are reconstructed and the rest
of DST is unchanged. -/
def Obligations.UnfilterStopsAtBadType : Prop :=
  ∀ (s : State) (f : PixFmt) (y0 : Nat), formatFor .unfilter s.latch = some f →
    let r := s.latch.raster f
    s.latch.fits s.params r.filteredLen r.rawLen → y0 < r.h → (∀ y, y < y0 → s.rowType r y ≤ 4) → 4 < s.rowType r y0 →
    ∃ t, exec .unfilter s = .next t ∧ State.failedWith s t 0x09 (s.rowType r y0) y0 ∧
      State.sameOutside s t r.dst (y0 * r.bpl) ∧ State.sameRest s t ∧
      ∀ y x, y < y0 → x < r.bpl → ∃ ft, FilterType.ofCode (s.rowType r y) = some ft ∧
        t.readByte (r.dst + y * r.bpl + x) =
          s.readByte (r.src + y * (1 + r.bpl) + 1 + x) + ft.pred (neighbours (rawByte t.mem r.dst r.bpl) f.bytesPP y x)

/-- R170: FILTER writes on every row its type byte and each raw byte of SRC minus the predictor of its raw neighbours, and
changes no other byte. -/
def Obligations.FilterEmitsFilteredRows : Prop :=
  ∀ (s : State) (f : PixFmt) (code : Nat) (ft : FilterType), FilterType.ofCode code = some ft →
    formatFor .filter s.latch = some f →
    let r := s.latch.raster f
    s.latch.fits s.params r.rawLen r.filteredLen →
    ∃ t, exec (.filter code) s = .next t ∧ State.completedWith s t r.h ∧ State.sameOutside s t r.dst r.filteredLen ∧
      State.sameRest s t ∧ State.SameUnits s t ∧
      ∀ y, y < r.h → (t.readByte (r.dst + y * (1 + r.bpl))).toNat = code ∧
        ∀ x, x < r.bpl → t.readByte (r.dst + y * (1 + r.bpl) + 1 + x) =
          s.readByte (r.src + y * r.bpl + x) - ft.pred (neighbours (rawByte s.mem r.src r.bpl) f.bytesPP y x)

/-- R82: FILTER with FTYPE above 4 raises FILTER_TYPE at its start, whatever FORMAT and the regions are. -/
def Obligations.FilterRefusesTypesAboveFour : Prop :=
  ∀ (s : State) (code : Nat), 4 < code →
    ∃ t, exec (.filter code) s = .next t ∧ State.failedWith s t 0x09 code s.outCount.toNat ∧ t.mem = s.mem ∧
      State.sameRest s t ∧ State.SameUnits s t

/-- R171: UNFILTER of what FILTER wrote gives the raw image back, for every legal format, size, image and type. -/
def Obligations.UnfilterInvertsFilter : Prop :=
  ∀ (s : State) (f : PixFmt) (code : Nat) (d n : Word), code ≤ 4 → formatFor .filter s.latch = some f →
    let r := s.latch.raster f
    let L := (s.latch.withSrc s.latch.dstAddr s.latch.dstLen).withDst d n
    s.latch.fits s.params r.rawLen r.filteredLen → L.fits s.params r.filteredLen r.rawLen →
    ∃ t u, exec (.filter code) s = .next t ∧ exec .unfilter (t.withLatch L) = .next u ∧ u.status.err = s.status.err ∧
      u.outCount = s.latch.height ∧
      ∀ y x, y < r.h → x < r.bpl → u.readByte (d.toNat + y * r.bpl + x) = s.readByte (r.src + y * r.bpl + x)

/-! ### Pixels -/

/-- EXPAND of RGBA and RGB images (R195 to R197): samples are reduced to their high byte, and the pixel that matches the key is
transparent. In bytes at depth 16 (R192, R194): the byte at the lower address is kept, and the key is compared with both bytes. -/
def Obligations.ExpandTrueColour : Prop :=
  ∀ (s : State) (f : PixFmt), formatFor .expand s.latch = some f → f.ct = .rgba ∨ f.ct = .rgb →
    let r := s.latch.raster f
    let v := s.sampleAt r.src r
    s.latch.fits s.params r.rawLen (4 * r.w * r.h) →
    ∃ t, exec .expand s = .next t ∧ State.completedWith s t (r.w * r.h) ∧
      State.sameOutside s t r.dst (4 * r.w * r.h) ∧ State.sameRest s t ∧ State.SameUnits s t ∧
      ∀ y x, y < r.h → x < r.w →
        (∀ j, j < 3 → (t.readByte (r.dst + 4 * (y * r.w + x) + j)).toNat = v y x j / 2 ^ (f.depth - 8)) ∧
        (t.readByte (r.dst + 4 * (y * r.w + x) + 3)).toNat =
          (if f.ct = .rgba then v y x 3 / 2 ^ (f.depth - 8)
           else if f.trnsEn = true ∧ v y x 0 = s.latch.tkey0.toNat ∧ v y x 1 = s.latch.tkey1.toNat ∧
             v y x 2 = s.latch.tkey2.toNat then 0 else 255) ∧
        (f.depth = 16 → ∀ j, j < 3 ∨ (j = 3 ∧ f.ct = .rgba) →
          t.readByte (r.dst + 4 * (y * r.w + x) + j) =
            s.readByte (r.src + y * r.bpl + 2 * (x * f.ct.channels + j))) ∧
        (f.depth = 16 → f.ct = .rgb → f.trnsEn = true →
          (t.readByte (r.dst + 4 * (y * r.w + x) + 3) = 0 ↔
            ∀ k ∈ [(0, s.latch.tkey0), (1, s.latch.tkey1), (2, s.latch.tkey2)],
              256 * (s.readByte (r.src + y * r.bpl + 2 * (x * 3 + k.1))).toNat +
                (s.readByte (r.src + y * r.bpl + 2 * (x * 3 + k.1) + 1)).toNat = k.2.toNat))

/-- EXPAND of gray images with and without alpha (R195, R199, R200): gray is scaled to 0..255 below depth 8 and reduced to its
high byte at depth 16; a key below `2^d` matches the sample it equals, and no other key matches. In bytes at depth 16 (R192, R194):
the byte at the lower address is kept, and the key is compared with both bytes. -/
def Obligations.ExpandGray : Prop :=
  ∀ (s : State) (f : PixFmt), formatFor .expand s.latch = some f → f.ct = .gray ∨ f.ct = .grayAlpha →
    let r := s.latch.raster f
    let v := s.sampleAt r.src r
    s.latch.fits s.params r.rawLen (4 * r.w * r.h) →
    ∃ t, exec .expand s = .next t ∧ State.completedWith s t (r.w * r.h) ∧
      State.sameOutside s t r.dst (4 * r.w * r.h) ∧ State.sameRest s t ∧ State.SameUnits s t ∧
      ∀ y x, y < r.h → x < r.w →
        (∀ j, j < 3 → (t.readByte (r.dst + 4 * (y * r.w + x) + j)).toNat =
          if f.depth < 8 then v y x 0 * (255 / (2 ^ f.depth - 1)) else v y x 0 / 2 ^ (f.depth - 8)) ∧
        (t.readByte (r.dst + 4 * (y * r.w + x) + 3)).toNat =
          (if f.ct = .grayAlpha then v y x 1 / 2 ^ (f.depth - 8)
           else if f.trnsEn = true ∧ v y x 0 = s.latch.tkey0.toNat then 0 else 255) ∧
        (f.depth = 16 → ∀ j, j < 3 →
          t.readByte (r.dst + 4 * (y * r.w + x) + j) = s.readByte (r.src + y * r.bpl + 2 * (x * f.ct.channels))) ∧
        (f.depth = 16 → f.ct = .grayAlpha →
          t.readByte (r.dst + 4 * (y * r.w + x) + 3) = s.readByte (r.src + y * r.bpl + 2 * (x * 2 + 1))) ∧
        (f.depth = 16 → f.ct = .gray → f.trnsEn = true →
          (t.readByte (r.dst + 4 * (y * r.w + x) + 3) = 0 ↔
            256 * (s.readByte (r.src + y * r.bpl + 2 * x)).toNat + (s.readByte (r.src + y * r.bpl + 2 * x + 1)).toNat =
              s.latch.tkey0.toNat))

/-- EXPAND of palette images (R198): the entry of the index, with the tRNS alpha where there is one. -/
def Obligations.ExpandPalette : Prop :=
  ∀ (s : State) (f : PixFmt), formatFor .expand s.latch = some f → f.ct = .palette →
    let r := s.latch.raster f
    let v := fun y x => s.sampleAt r.src r y x 0
    s.latch.fits s.params r.rawLen (4 * r.w * r.h) → s.latch.tablesFit s.params →
    (∀ y x, y < r.h → x < r.w → v y x < s.latch.plteCount.toNat) →
    ∃ t, exec .expand s = .next t ∧ State.completedWith s t (r.w * r.h) ∧
      State.sameOutside s t r.dst (4 * r.w * r.h) ∧ State.sameRest s t ∧ State.SameUnits s t ∧
      ∀ y x, y < r.h → x < r.w →
        (∀ j, j < 3 → t.readByte (r.dst + 4 * (y * r.w + x) + j) =
          s.readByte (s.latch.plteAddr.toNat + 3 * v y x + j)) ∧
        t.readByte (r.dst + 4 * (y * r.w + x) + 3) =
          if v y x < s.latch.trnsLen.toNat then s.readByte (s.latch.trnsAddr.toNat + v y x) else 255

/-- The first pixel, row by row, whose index has no palette entry ends EXPAND by PALETTE_INDEX; the pixels before it are written,
colour and alpha, and the rest of DST is unchanged (R195, R198). -/
def Obligations.ExpandStopsAtBadIndex : Prop :=
  ∀ (s : State) (f : PixFmt) (y0 x0 : Nat), formatFor .expand s.latch = some f → f.ct = .palette →
    let r := s.latch.raster f
    let v := fun y x => s.sampleAt r.src r y x 0
    s.latch.fits s.params r.rawLen (4 * r.w * r.h) → s.latch.tablesFit s.params → y0 < r.h → x0 < r.w →
    (∀ y x, y < r.h → x < r.w → y * r.w + x < y0 * r.w + x0 → v y x < s.latch.plteCount.toNat) →
    s.latch.plteCount.toNat ≤ v y0 x0 →
    ∃ t, exec .expand s = .next t ∧ State.failedWith s t 0x0A (v y0 x0) (y0 * r.w + x0) ∧
      State.sameOutside s t r.dst (4 * (y0 * r.w + x0)) ∧ State.sameRest s t ∧
      ∀ y x, y < r.h → x < r.w → y * r.w + x < y0 * r.w + x0 →
        (∀ j, j < 3 →
          t.readByte (r.dst + 4 * (y * r.w + x) + j) = s.readByte (s.latch.plteAddr.toNat + 3 * v y x + j)) ∧
        t.readByte (r.dst + 4 * (y * r.w + x) + 3) =
          if v y x < s.latch.trnsLen.toNat then s.readByte (s.latch.trnsAddr.toNat + v y x) else 255

/-- R210: with samples that fit, PACK writes the raw image whose samples, read back by R192, are the bytes of SRC, with padding
bits 0, and changes no other byte. -/
def Obligations.PackWritesSamples : Prop :=
  ∀ (s : State) (f : PixFmt), formatFor .pack s.latch = some f →
    let r := s.latch.raster f
    s.latch.fits s.params r.sampleBytes r.rawLen →
    (∀ k, k < r.sampleBytes → (s.readByte (r.src + k)).toNat < 2 ^ f.depth) →
    ∃ t, exec .pack s = .next t ∧ State.completedWith s t r.h ∧ State.sameOutside s t r.dst r.rawLen ∧
      State.sameRest s t ∧
      (∀ y x j, y < r.h → x < r.w → j < f.ct.channels →
        t.sampleAt r.dst r y x j = (s.readByte (r.src + (y * r.w + x) * f.ct.channels + j)).toNat) ∧
      (∀ y, y < r.h → r.w * f.bitsPP % 8 ≠ 0 →
        (t.readByte (r.dst + y * r.bpl + (r.bpl - 1))).toNat % 2 ^ (8 - r.w * f.bitsPP % 8) = 0)

/-- The first sample that does not fit ends PACK by SAMPLE_RANGE; the rows before its row hold their samples, with padding bits 0,
and its row and the rest of DST are unchanged (R210, R212). -/
def Obligations.PackStopsAtBadSample : Prop :=
  ∀ (s : State) (f : PixFmt) (y0 x0 : Nat), formatFor .pack s.latch = some f → f.depth < 8 →
    let r := s.latch.raster f
    s.latch.fits s.params r.sampleBytes r.rawLen → y0 < r.h → x0 < r.w →
    (∀ k, k < y0 * r.w + x0 → (s.readByte (r.src + k)).toNat < 2 ^ f.depth) →
    2 ^ f.depth ≤ (s.readByte (r.src + (y0 * r.w + x0))).toNat →
    ∃ t, exec .pack s = .next t ∧
      State.failedWith s t 0x0B (s.readByte (r.src + (y0 * r.w + x0))).toNat y0 ∧
      State.sameOutside s t r.dst (y0 * r.bpl) ∧ State.sameRest s t ∧
      (∀ y x, y < y0 → x < r.w →
        t.sampleAt r.dst r y x 0 = (s.readByte (r.src + (y * r.w + x))).toNat) ∧
      (∀ y, y < y0 → r.w * f.bitsPP % 8 ≠ 0 →
        (t.readByte (r.dst + y * r.bpl + (r.bpl - 1))).toNat % 2 ^ (8 - r.w * f.bitsPP % 8) = 0)

/-- R213: EXPAND of what PACK wrote from an RGBA8 image is that image. -/
def Obligations.ExpandInvertsPackOfRgba : Prop :=
  ∀ (s : State) (f : PixFmt) (d n : Word), formatFor .pack s.latch = some f → f.ct = .rgba →
    let r := s.latch.raster f
    let L := (s.latch.withSrc s.latch.dstAddr s.latch.dstLen).withDst d n
    s.latch.fits s.params r.sampleBytes r.rawLen → L.fits s.params r.rawLen (4 * r.w * r.h) →
    ∃ t u, exec .pack s = .next t ∧ exec .expand (t.withLatch L) = .next u ∧ u.status.err = s.status.err ∧
      ∀ k, k < 4 * r.w * r.h → u.readByte (d.toNat + k) = s.readByte (r.src + k)

/-! ### Adam7 -/

/-- R236: every pixel of the image lies in exactly one pass, at exactly one row and column of it, and in the pass R236 names. -/
def Obligations.Adam7CoversEachPixelOnce : Prop :=
  ∀ w h x y : Nat, x < w → y < h →
    ∃ p r i, p < 7 ∧ r < passRows w h p ∧ i < passWidth w p ∧
      y = (adam7Pass p).sr + r * (adam7Pass p).ri ∧ x = (adam7Pass p).sc + i * (adam7Pass p).ci ∧
      p = (if y % 2 = 1 then 6 else if x % 2 = 1 then 5 else if y % 4 = 2 then 4 else if x % 4 = 2 then 3
           else if y % 8 = 4 then 2 else if x % 8 = 4 then 1 else 0) ∧
      ∀ p' r' i', p' < 7 → r' < passRows w h p' → i' < passWidth w p' →
        y = (adam7Pass p').sr + r' * (adam7Pass p').ri → x = (adam7Pass p').sc + i' * (adam7Pass p').ci →
        p' = p ∧ r' = r ∧ i' = i

/-- R233 to R235: with legal filter types, each pass is unfiltered on its own and its pixels are scattered to their places; OUT_COUNT
is the number of pass rows; padding bits are 0 (R233; R238 read literally says otherwise for one pixel, log entry 13); no other byte
changes. -/
def Obligations.Adam7Deinterlaces : Prop :=
  ∀ (s : State) (f : PixFmt), formatFor .adam7 s.latch = some f →
    let r := s.latch.raster f
    s.latch.fits s.params (adam7Len r) r.rawLen → r.bpl ≤ s.params.lineBufBytes →
    (∀ p row, p < 7 → row < passRows r.w r.h p → s.passType r p row ≤ 4) →
    ∃ t, exec .adam7Deinterlace s = .next t ∧ State.completedWith s t (adam7Rows r) ∧
      State.sameOutside s t r.dst r.rawLen ∧ State.sameRest s t ∧
      (∃ raw : Nat → Nat → Nat → Byte,
        (∀ p row x, p < 7 → row < passRows r.w r.h p → x < passBpl f r.w p →
          ∃ ft, FilterType.ofCode (s.passType r p row) = some ft ∧
            raw p row x = s.readByte (r.src + adam7Offset r p row + 1 + x) + ft.pred (neighbours (raw p) f.bytesPP row x)) ∧
        (∀ p row i j, p < 7 → row < passRows r.w r.h p → i < passWidth r.w p → j < f.ct.channels →
          t.sampleAt r.dst r ((adam7Pass p).sr + row * (adam7Pass p).ri) ((adam7Pass p).sc + i * (adam7Pass p).ci) j =
            rowNumber (raw p row) f i j)) ∧
      (∀ y, y < r.h → r.w * f.bitsPP % 8 ≠ 0 →
        (t.readByte (r.dst + y * r.bpl + (r.bpl - 1))).toNat % 2 ^ (8 - r.w * f.bitsPP % 8) = 0)

/-- The first pass row whose type byte exceeds 4 ends ADAM7_DEINTERLACE by FILTER_TYPE, with the pass rows before it counted
(R233, R264). DST was cleared and holds the pixels of those pass rows: every other pixel and the padding bits are 0 (log entry 13 for
the padding bits). -/
def Obligations.Adam7StopsAtBadType : Prop :=
  ∀ (s : State) (f : PixFmt) (p0 row0 : Nat), formatFor .adam7 s.latch = some f →
    let r := s.latch.raster f
    s.latch.fits s.params (adam7Len r) r.rawLen → r.bpl ≤ s.params.lineBufBytes → p0 < 7 → row0 < passRows r.w r.h p0 →
    (∀ p row, p < 7 → row < passRows r.w r.h p → p < p0 ∨ (p = p0 ∧ row < row0) → s.passType r p row ≤ 4) →
    4 < s.passType r p0 row0 →
    ∃ t, exec .adam7Deinterlace s = .next t ∧
      State.failedWith s t 0x09 (s.passType r p0 row0) (adam7RowsBefore r p0 row0) ∧
      State.sameOutside s t r.dst r.rawLen ∧ State.sameRest s t ∧
      (∃ raw : Nat → Nat → Nat → Byte,
        (∀ p row x, p < 7 → row < passRows r.w r.h p → p < p0 ∨ (p = p0 ∧ row < row0) → x < passBpl f r.w p →
          ∃ ft, FilterType.ofCode (s.passType r p row) = some ft ∧
            raw p row x = s.readByte (r.src + adam7Offset r p row + 1 + x) + ft.pred (neighbours (raw p) f.bytesPP row x)) ∧
        (∀ p row i j, p < 7 → row < passRows r.w r.h p → i < passWidth r.w p → j < f.ct.channels →
          t.sampleAt r.dst r ((adam7Pass p).sr + row * (adam7Pass p).ri) ((adam7Pass p).sc + i * (adam7Pass p).ci) j =
            if p < p0 ∨ (p = p0 ∧ row < row0) then rowNumber (raw p row) f i j else 0)) ∧
      (∀ y, y < r.h → r.w * f.bitsPP % 8 ≠ 0 →
        (t.readByte (r.dst + y * r.bpl + (r.bpl - 1))).toNat % 2 ^ (8 - r.w * f.bitsPP % 8) = 0)

/-- R238 on an image of one pixel: ADAM7_DEINTERLACE and UNFILTER complete alike and leave the same pixel. Their DST is the same when a
pixel fills whole bytes; below 8 bits a pixel it is the same but for the padding bits, which ADAM7_DEINTERLACE leaves 0 (R233, R235)
and UNFILTER does not (R161): there the model follows the operations (log entry 13). -/
def Obligations.Adam7OfOnePixelIsUnfilter : Prop :=
  ∀ (s : State) (f : PixFmt), formatFor .adam7 s.latch = some f →
    let r := s.latch.raster f
    r.w = 1 → r.h = 1 → s.latch.fits s.params r.filteredLen r.rawLen → r.bpl ≤ s.params.lineBufBytes →
    s.rowType r 0 ≤ 4 →
    ∃ t u, exec .adam7Deinterlace s = .next t ∧ exec .unfilter s = .next u ∧ t.status = u.status ∧
      t.outCount = u.outCount ∧ (∀ j, j < f.ct.channels → t.sampleAt r.dst r 0 0 j = u.sampleAt r.dst r 0 0 j) ∧
      (8 ≤ f.bitsPP → State.sameMem u t) ∧
      (f.bitsPP < 8 → State.sameOutside u t r.dst 1 ∧
        (t.readByte r.dst).toNat = (u.readByte r.dst).toNat / 2 ^ (8 - f.bitsPP) * 2 ^ (8 - f.bitsPP))
end

