-- ==== Sys2Proof/Laws/State.lean ====
section
/-! SUPPORT. What each named update does to each field of State, so that no later proof unfolds a record update. -/

namespace Sys2Proof.Machine

variable (s : State)

/-! ### State.withOut -/

@[simp] theorem State.withOut_params (n : Nat) : (s.withOut n).params = s.params := rfl
@[simp] theorem State.withOut_status (n : Nat) : (s.withOut n).status = s.status := rfl
@[simp] theorem State.withOut_irqEn (n : Nat) : (s.withOut n).irqEn = s.irqEn := rfl
@[simp] theorem State.withOut_args (n : Nat) : (s.withOut n).args = s.args := rfl
@[simp] theorem State.withOut_crcState (n : Nat) : (s.withOut n).crcState = s.crcState := rfl
@[simp] theorem State.withOut_outCount (n : Nat) : (s.withOut n).outCount = BitVec.ofNat 32 n := rfl
@[simp] theorem State.withOut_errInfo (n : Nat) : (s.withOut n).errInfo = s.errInfo := rfl
@[simp] theorem State.withOut_mem (n : Nat) : (s.withOut n).mem = s.mem := rfl
@[simp] theorem State.withOut_command (n : Nat) : (s.withOut n).command = s.command := rfl
@[simp] theorem State.withOut_latch (n : Nat) : (s.withOut n).latch = s.latch := rfl
@[simp] theorem State.withOut_codeTable (n : Nat) : (s.withOut n).codeTable = s.codeTable := rfl
@[simp] theorem State.withOut_lineBuf (n : Nat) : (s.withOut n).lineBuf = s.lineBuf := rfl
@[simp] theorem State.withOut_lzw (n : Nat) : (s.withOut n).lzw = s.lzw := rfl
@[simp] theorem State.withOut_counters (n : Nat) : (s.withOut n).counters = s.counters := rfl
@[simp] theorem State.withOut_packRow (n : Nat) : (s.withOut n).packRow = s.packRow := rfl
@[simp] theorem State.withOut_busyLeft (n : Nat) : (s.withOut n).busyLeft = s.busyLeft := rfl
@[simp] theorem State.withOut_draws (n : Nat) : (s.withOut n).draws = s.draws := rfl
@[simp] theorem State.withOut_hostQ (n : Nat) : (s.withOut n).hostQ = s.hostQ := rfl
@[simp] theorem State.withOut_answers (n : Nat) : (s.withOut n).answers = s.answers := rfl
@[simp] theorem State.withOut_rstPin (n : Nat) : (s.withOut n).rstPin = s.rstPin := rfl

/-! ### State.withMem -/

@[simp] theorem State.withMem_params (m : Memory) : (s.withMem m).params = s.params := rfl
@[simp] theorem State.withMem_status (m : Memory) : (s.withMem m).status = s.status := rfl
@[simp] theorem State.withMem_irqEn (m : Memory) : (s.withMem m).irqEn = s.irqEn := rfl
@[simp] theorem State.withMem_args (m : Memory) : (s.withMem m).args = s.args := rfl
@[simp] theorem State.withMem_crcState (m : Memory) : (s.withMem m).crcState = s.crcState := rfl
@[simp] theorem State.withMem_outCount (m : Memory) : (s.withMem m).outCount = s.outCount := rfl
@[simp] theorem State.withMem_errInfo (m : Memory) : (s.withMem m).errInfo = s.errInfo := rfl
@[simp] theorem State.withMem_mem (m : Memory) : (s.withMem m).mem = m := rfl
@[simp] theorem State.withMem_command (m : Memory) : (s.withMem m).command = s.command := rfl
@[simp] theorem State.withMem_latch (m : Memory) : (s.withMem m).latch = s.latch := rfl
@[simp] theorem State.withMem_codeTable (m : Memory) : (s.withMem m).codeTable = s.codeTable := rfl
@[simp] theorem State.withMem_lineBuf (m : Memory) : (s.withMem m).lineBuf = s.lineBuf := rfl
@[simp] theorem State.withMem_lzw (m : Memory) : (s.withMem m).lzw = s.lzw := rfl
@[simp] theorem State.withMem_counters (m : Memory) : (s.withMem m).counters = s.counters := rfl
@[simp] theorem State.withMem_packRow (m : Memory) : (s.withMem m).packRow = s.packRow := rfl
@[simp] theorem State.withMem_busyLeft (m : Memory) : (s.withMem m).busyLeft = s.busyLeft := rfl
@[simp] theorem State.withMem_draws (m : Memory) : (s.withMem m).draws = s.draws := rfl
@[simp] theorem State.withMem_hostQ (m : Memory) : (s.withMem m).hostQ = s.hostQ := rfl
@[simp] theorem State.withMem_answers (m : Memory) : (s.withMem m).answers = s.answers := rfl
@[simp] theorem State.withMem_rstPin (m : Memory) : (s.withMem m).rstPin = s.rstPin := rfl

/-! ### State.withCrc -/

@[simp] theorem State.withCrc_params (c : Word) : (s.withCrc c).params = s.params := rfl
@[simp] theorem State.withCrc_status (c : Word) : (s.withCrc c).status = s.status := rfl
@[simp] theorem State.withCrc_irqEn (c : Word) : (s.withCrc c).irqEn = s.irqEn := rfl
@[simp] theorem State.withCrc_args (c : Word) : (s.withCrc c).args = s.args := rfl
@[simp] theorem State.withCrc_crcState (c : Word) : (s.withCrc c).crcState = c := rfl
@[simp] theorem State.withCrc_outCount (c : Word) : (s.withCrc c).outCount = s.outCount := rfl
@[simp] theorem State.withCrc_errInfo (c : Word) : (s.withCrc c).errInfo = s.errInfo := rfl
@[simp] theorem State.withCrc_mem (c : Word) : (s.withCrc c).mem = s.mem := rfl
@[simp] theorem State.withCrc_command (c : Word) : (s.withCrc c).command = s.command := rfl
@[simp] theorem State.withCrc_latch (c : Word) : (s.withCrc c).latch = s.latch := rfl
@[simp] theorem State.withCrc_codeTable (c : Word) : (s.withCrc c).codeTable = s.codeTable := rfl
@[simp] theorem State.withCrc_lineBuf (c : Word) : (s.withCrc c).lineBuf = s.lineBuf := rfl
@[simp] theorem State.withCrc_lzw (c : Word) : (s.withCrc c).lzw = s.lzw := rfl
@[simp] theorem State.withCrc_counters (c : Word) : (s.withCrc c).counters = s.counters := rfl
@[simp] theorem State.withCrc_packRow (c : Word) : (s.withCrc c).packRow = s.packRow := rfl
@[simp] theorem State.withCrc_busyLeft (c : Word) : (s.withCrc c).busyLeft = s.busyLeft := rfl
@[simp] theorem State.withCrc_draws (c : Word) : (s.withCrc c).draws = s.draws := rfl
@[simp] theorem State.withCrc_hostQ (c : Word) : (s.withCrc c).hostQ = s.hostQ := rfl
@[simp] theorem State.withCrc_answers (c : Word) : (s.withCrc c).answers = s.answers := rfl
@[simp] theorem State.withCrc_rstPin (c : Word) : (s.withCrc c).rstPin = s.rstPin := rfl

/-! ### State.withCounters -/

@[simp] theorem State.withCounters_params (c : Counters) : (s.withCounters c).params = s.params := rfl
@[simp] theorem State.withCounters_status (c : Counters) : (s.withCounters c).status = s.status := rfl
@[simp] theorem State.withCounters_irqEn (c : Counters) : (s.withCounters c).irqEn = s.irqEn := rfl
@[simp] theorem State.withCounters_args (c : Counters) : (s.withCounters c).args = s.args := rfl
@[simp] theorem State.withCounters_crcState (c : Counters) : (s.withCounters c).crcState = s.crcState := rfl
@[simp] theorem State.withCounters_outCount (c : Counters) : (s.withCounters c).outCount = s.outCount := rfl
@[simp] theorem State.withCounters_errInfo (c : Counters) : (s.withCounters c).errInfo = s.errInfo := rfl
@[simp] theorem State.withCounters_mem (c : Counters) : (s.withCounters c).mem = s.mem := rfl
@[simp] theorem State.withCounters_command (c : Counters) : (s.withCounters c).command = s.command := rfl
@[simp] theorem State.withCounters_latch (c : Counters) : (s.withCounters c).latch = s.latch := rfl
@[simp] theorem State.withCounters_codeTable (c : Counters) : (s.withCounters c).codeTable = s.codeTable := rfl
@[simp] theorem State.withCounters_lineBuf (c : Counters) : (s.withCounters c).lineBuf = s.lineBuf := rfl
@[simp] theorem State.withCounters_lzw (c : Counters) : (s.withCounters c).lzw = s.lzw := rfl
@[simp] theorem State.withCounters_counters (c : Counters) : (s.withCounters c).counters = c := rfl
@[simp] theorem State.withCounters_packRow (c : Counters) : (s.withCounters c).packRow = s.packRow := rfl
@[simp] theorem State.withCounters_busyLeft (c : Counters) : (s.withCounters c).busyLeft = s.busyLeft := rfl
@[simp] theorem State.withCounters_draws (c : Counters) : (s.withCounters c).draws = s.draws := rfl
@[simp] theorem State.withCounters_hostQ (c : Counters) : (s.withCounters c).hostQ = s.hostQ := rfl
@[simp] theorem State.withCounters_answers (c : Counters) : (s.withCounters c).answers = s.answers := rfl
@[simp] theorem State.withCounters_rstPin (c : Counters) : (s.withCounters c).rstPin = s.rstPin := rfl

/-! ### State.withLineBuf -/

@[simp] theorem State.withLineBuf_params (lb : Ram 8) : (s.withLineBuf lb).params = s.params := rfl
@[simp] theorem State.withLineBuf_status (lb : Ram 8) : (s.withLineBuf lb).status = s.status := rfl
@[simp] theorem State.withLineBuf_irqEn (lb : Ram 8) : (s.withLineBuf lb).irqEn = s.irqEn := rfl
@[simp] theorem State.withLineBuf_args (lb : Ram 8) : (s.withLineBuf lb).args = s.args := rfl
@[simp] theorem State.withLineBuf_crcState (lb : Ram 8) : (s.withLineBuf lb).crcState = s.crcState := rfl
@[simp] theorem State.withLineBuf_outCount (lb : Ram 8) : (s.withLineBuf lb).outCount = s.outCount := rfl
@[simp] theorem State.withLineBuf_errInfo (lb : Ram 8) : (s.withLineBuf lb).errInfo = s.errInfo := rfl
@[simp] theorem State.withLineBuf_mem (lb : Ram 8) : (s.withLineBuf lb).mem = s.mem := rfl
@[simp] theorem State.withLineBuf_command (lb : Ram 8) : (s.withLineBuf lb).command = s.command := rfl
@[simp] theorem State.withLineBuf_latch (lb : Ram 8) : (s.withLineBuf lb).latch = s.latch := rfl
@[simp] theorem State.withLineBuf_codeTable (lb : Ram 8) : (s.withLineBuf lb).codeTable = s.codeTable := rfl
@[simp] theorem State.withLineBuf_lineBuf (lb : Ram 8) : (s.withLineBuf lb).lineBuf = lb := rfl
@[simp] theorem State.withLineBuf_lzw (lb : Ram 8) : (s.withLineBuf lb).lzw = s.lzw := rfl
@[simp] theorem State.withLineBuf_counters (lb : Ram 8) : (s.withLineBuf lb).counters = s.counters := rfl
@[simp] theorem State.withLineBuf_packRow (lb : Ram 8) : (s.withLineBuf lb).packRow = s.packRow := rfl
@[simp] theorem State.withLineBuf_busyLeft (lb : Ram 8) : (s.withLineBuf lb).busyLeft = s.busyLeft := rfl
@[simp] theorem State.withLineBuf_draws (lb : Ram 8) : (s.withLineBuf lb).draws = s.draws := rfl
@[simp] theorem State.withLineBuf_hostQ (lb : Ram 8) : (s.withLineBuf lb).hostQ = s.hostQ := rfl
@[simp] theorem State.withLineBuf_answers (lb : Ram 8) : (s.withLineBuf lb).answers = s.answers := rfl
@[simp] theorem State.withLineBuf_rstPin (lb : Ram 8) : (s.withLineBuf lb).rstPin = s.rstPin := rfl

/-! ### State.withPackRow -/

@[simp] theorem State.withPackRow_params (row : List Byte) : (s.withPackRow row).params = s.params := rfl
@[simp] theorem State.withPackRow_status (row : List Byte) : (s.withPackRow row).status = s.status := rfl
@[simp] theorem State.withPackRow_irqEn (row : List Byte) : (s.withPackRow row).irqEn = s.irqEn := rfl
@[simp] theorem State.withPackRow_args (row : List Byte) : (s.withPackRow row).args = s.args := rfl
@[simp] theorem State.withPackRow_crcState (row : List Byte) : (s.withPackRow row).crcState = s.crcState := rfl
@[simp] theorem State.withPackRow_outCount (row : List Byte) : (s.withPackRow row).outCount = s.outCount := rfl
@[simp] theorem State.withPackRow_errInfo (row : List Byte) : (s.withPackRow row).errInfo = s.errInfo := rfl
@[simp] theorem State.withPackRow_mem (row : List Byte) : (s.withPackRow row).mem = s.mem := rfl
@[simp] theorem State.withPackRow_command (row : List Byte) : (s.withPackRow row).command = s.command := rfl
@[simp] theorem State.withPackRow_latch (row : List Byte) : (s.withPackRow row).latch = s.latch := rfl
@[simp] theorem State.withPackRow_codeTable (row : List Byte) : (s.withPackRow row).codeTable = s.codeTable := rfl
@[simp] theorem State.withPackRow_lineBuf (row : List Byte) : (s.withPackRow row).lineBuf = s.lineBuf := rfl
@[simp] theorem State.withPackRow_lzw (row : List Byte) : (s.withPackRow row).lzw = s.lzw := rfl
@[simp] theorem State.withPackRow_counters (row : List Byte) : (s.withPackRow row).counters = s.counters := rfl
@[simp] theorem State.withPackRow_packRow (row : List Byte) : (s.withPackRow row).packRow = row := rfl
@[simp] theorem State.withPackRow_busyLeft (row : List Byte) : (s.withPackRow row).busyLeft = s.busyLeft := rfl
@[simp] theorem State.withPackRow_draws (row : List Byte) : (s.withPackRow row).draws = s.draws := rfl
@[simp] theorem State.withPackRow_hostQ (row : List Byte) : (s.withPackRow row).hostQ = s.hostQ := rfl
@[simp] theorem State.withPackRow_answers (row : List Byte) : (s.withPackRow row).answers = s.answers := rfl
@[simp] theorem State.withPackRow_rstPin (row : List Byte) : (s.withPackRow row).rstPin = s.rstPin := rfl

/-! ### State.withLzw -/

@[simp] theorem State.withLzw_params (k : LzwRun) : (s.withLzw k).params = s.params := rfl
@[simp] theorem State.withLzw_status (k : LzwRun) : (s.withLzw k).status = s.status := rfl
@[simp] theorem State.withLzw_irqEn (k : LzwRun) : (s.withLzw k).irqEn = s.irqEn := rfl
@[simp] theorem State.withLzw_args (k : LzwRun) : (s.withLzw k).args = s.args := rfl
@[simp] theorem State.withLzw_crcState (k : LzwRun) : (s.withLzw k).crcState = s.crcState := rfl
@[simp] theorem State.withLzw_outCount (k : LzwRun) : (s.withLzw k).outCount = s.outCount := rfl
@[simp] theorem State.withLzw_errInfo (k : LzwRun) : (s.withLzw k).errInfo = s.errInfo := rfl
@[simp] theorem State.withLzw_mem (k : LzwRun) : (s.withLzw k).mem = k.mem := rfl
@[simp] theorem State.withLzw_command (k : LzwRun) : (s.withLzw k).command = s.command := rfl
@[simp] theorem State.withLzw_latch (k : LzwRun) : (s.withLzw k).latch = s.latch := rfl
@[simp] theorem State.withLzw_codeTable (k : LzwRun) : (s.withLzw k).codeTable = k.table := rfl
@[simp] theorem State.withLzw_lineBuf (k : LzwRun) : (s.withLzw k).lineBuf = s.lineBuf := rfl
@[simp] theorem State.withLzw_lzw (k : LzwRun) : (s.withLzw k).lzw = k.z.regs := rfl
@[simp] theorem State.withLzw_counters (k : LzwRun) : (s.withLzw k).counters = s.counters := rfl
@[simp] theorem State.withLzw_packRow (k : LzwRun) : (s.withLzw k).packRow = s.packRow := rfl
@[simp] theorem State.withLzw_busyLeft (k : LzwRun) : (s.withLzw k).busyLeft = s.busyLeft := rfl
@[simp] theorem State.withLzw_draws (k : LzwRun) : (s.withLzw k).draws = s.draws := rfl
@[simp] theorem State.withLzw_hostQ (k : LzwRun) : (s.withLzw k).hostQ = s.hostQ := rfl
@[simp] theorem State.withLzw_answers (k : LzwRun) : (s.withLzw k).answers = s.answers := rfl
@[simp] theorem State.withLzw_rstPin (k : LzwRun) : (s.withLzw k).rstPin = s.rstPin := rfl

/-! ### State.finish -/

@[simp] theorem State.finish_params (flags : List Flag) : (s.finish flags).params = s.params := rfl
@[simp] theorem State.finish_status (flags : List Flag) : (s.finish flags).status = s.status.finished flags := rfl
@[simp] theorem State.finish_irqEn (flags : List Flag) : (s.finish flags).irqEn = s.irqEn := rfl
@[simp] theorem State.finish_args (flags : List Flag) : (s.finish flags).args = s.args := rfl
@[simp] theorem State.finish_crcState (flags : List Flag) : (s.finish flags).crcState = s.crcState := rfl
@[simp] theorem State.finish_outCount (flags : List Flag) : (s.finish flags).outCount = s.outCount := rfl
@[simp] theorem State.finish_errInfo (flags : List Flag) : (s.finish flags).errInfo = s.errInfo := rfl
@[simp] theorem State.finish_mem (flags : List Flag) : (s.finish flags).mem = s.mem := rfl
@[simp] theorem State.finish_command (flags : List Flag) : (s.finish flags).command = s.command := rfl
@[simp] theorem State.finish_latch (flags : List Flag) : (s.finish flags).latch = s.latch := rfl
@[simp] theorem State.finish_codeTable (flags : List Flag) : (s.finish flags).codeTable = s.codeTable := rfl
@[simp] theorem State.finish_lineBuf (flags : List Flag) : (s.finish flags).lineBuf = s.lineBuf := rfl
@[simp] theorem State.finish_lzw (flags : List Flag) : (s.finish flags).lzw = s.lzw := rfl
@[simp] theorem State.finish_counters (flags : List Flag) : (s.finish flags).counters = s.counters := rfl
@[simp] theorem State.finish_packRow (flags : List Flag) : (s.finish flags).packRow = s.packRow := rfl
@[simp] theorem State.finish_busyLeft (flags : List Flag) : (s.finish flags).busyLeft = s.busyLeft := rfl
@[simp] theorem State.finish_draws (flags : List Flag) : (s.finish flags).draws = s.draws := rfl
@[simp] theorem State.finish_hostQ (flags : List Flag) : (s.finish flags).hostQ = s.hostQ := rfl
@[simp] theorem State.finish_answers (flags : List Flag) : (s.finish flags).answers = s.answers := rfl
@[simp] theorem State.finish_rstPin (flags : List Flag) : (s.finish flags).rstPin = s.rstPin := rfl

/-! ### State.raise -/

@[simp] theorem State.raise_params (e : CmdError) : (s.raise e).params = s.params := rfl
@[simp] theorem State.raise_status (e : CmdError) : (s.raise e).status = s.status.raised e.code := rfl
@[simp] theorem State.raise_irqEn (e : CmdError) : (s.raise e).irqEn = s.irqEn := rfl
@[simp] theorem State.raise_args (e : CmdError) : (s.raise e).args = s.args := rfl
@[simp] theorem State.raise_crcState (e : CmdError) : (s.raise e).crcState = s.crcState := rfl
@[simp] theorem State.raise_outCount (e : CmdError) : (s.raise e).outCount = s.outCount := rfl
@[simp] theorem State.raise_errInfo (e : CmdError) : (s.raise e).errInfo = BitVec.ofNat 32 e.info := rfl
@[simp] theorem State.raise_mem (e : CmdError) : (s.raise e).mem = s.mem := rfl
@[simp] theorem State.raise_command (e : CmdError) : (s.raise e).command = s.command := rfl
@[simp] theorem State.raise_latch (e : CmdError) : (s.raise e).latch = s.latch := rfl
@[simp] theorem State.raise_codeTable (e : CmdError) : (s.raise e).codeTable = s.codeTable := rfl
@[simp] theorem State.raise_lineBuf (e : CmdError) : (s.raise e).lineBuf = s.lineBuf := rfl
@[simp] theorem State.raise_lzw (e : CmdError) : (s.raise e).lzw = s.lzw := rfl
@[simp] theorem State.raise_counters (e : CmdError) : (s.raise e).counters = s.counters := rfl
@[simp] theorem State.raise_packRow (e : CmdError) : (s.raise e).packRow = s.packRow := rfl
@[simp] theorem State.raise_busyLeft (e : CmdError) : (s.raise e).busyLeft = s.busyLeft := rfl
@[simp] theorem State.raise_draws (e : CmdError) : (s.raise e).draws = s.draws := rfl
@[simp] theorem State.raise_hostQ (e : CmdError) : (s.raise e).hostQ = s.hostQ := rfl
@[simp] theorem State.raise_answers (e : CmdError) : (s.raise e).answers = s.answers := rfl
@[simp] theorem State.raise_rstPin (e : CmdError) : (s.raise e).rstPin = s.rstPin := rfl

/-! ### State.start -/

@[simp] theorem State.start_params (w : Word) : (s.start w).params = s.params := rfl
@[simp] theorem State.start_status (w : Word) : (s.start w).status = s.status.started := rfl
@[simp] theorem State.start_irqEn (w : Word) : (s.start w).irqEn = s.irqEn := rfl
@[simp] theorem State.start_args (w : Word) : (s.start w).args = s.args := rfl
@[simp] theorem State.start_crcState (w : Word) : (s.start w).crcState = s.crcState := rfl
@[simp] theorem State.start_outCount (w : Word) : (s.start w).outCount = 0 := rfl
@[simp] theorem State.start_errInfo (w : Word) : (s.start w).errInfo = 0 := rfl
@[simp] theorem State.start_mem (w : Word) : (s.start w).mem = s.mem := rfl
@[simp] theorem State.start_command (w : Word) : (s.start w).command = w := rfl
@[simp] theorem State.start_latch (w : Word) : (s.start w).latch = s.args := rfl
@[simp] theorem State.start_codeTable (w : Word) : (s.start w).codeTable = s.codeTable := rfl
@[simp] theorem State.start_lineBuf (w : Word) : (s.start w).lineBuf = s.lineBuf := rfl
@[simp] theorem State.start_lzw (w : Word) : (s.start w).lzw = s.lzw := rfl
@[simp] theorem State.start_counters (w : Word) : (s.start w).counters = s.counters := rfl
@[simp] theorem State.start_packRow (w : Word) : (s.start w).packRow = s.packRow := rfl
@[simp] theorem State.start_busyLeft (w : Word) : (s.start w).busyLeft = Config.commandSteps s.draws := rfl
@[simp] theorem State.start_draws (w : Word) : (s.start w).draws = s.draws + 1 := rfl
@[simp] theorem State.start_hostQ (w : Word) : (s.start w).hostQ = s.hostQ := rfl
@[simp] theorem State.start_answers (w : Word) : (s.start w).answers = s.answers := rfl
@[simp] theorem State.start_rstPin (w : Word) : (s.start w).rstPin = s.rstPin := rfl

/-! ### State.acknowledge -/

@[simp] theorem State.acknowledge_params (v : Word) : (s.acknowledge v).params = s.params := rfl
@[simp] theorem State.acknowledge_status (v : Word) : (s.acknowledge v).status = s.status.writeOneClear v := rfl
@[simp] theorem State.acknowledge_irqEn (v : Word) : (s.acknowledge v).irqEn = s.irqEn := rfl
@[simp] theorem State.acknowledge_args (v : Word) : (s.acknowledge v).args = s.args := rfl
@[simp] theorem State.acknowledge_crcState (v : Word) : (s.acknowledge v).crcState = s.crcState := rfl
@[simp] theorem State.acknowledge_outCount (v : Word) : (s.acknowledge v).outCount = s.outCount := rfl
@[simp] theorem State.acknowledge_errInfo (v : Word) : (s.acknowledge v).errInfo = s.errInfo := rfl
@[simp] theorem State.acknowledge_mem (v : Word) : (s.acknowledge v).mem = s.mem := rfl
@[simp] theorem State.acknowledge_command (v : Word) : (s.acknowledge v).command = s.command := rfl
@[simp] theorem State.acknowledge_latch (v : Word) : (s.acknowledge v).latch = s.latch := rfl
@[simp] theorem State.acknowledge_codeTable (v : Word) : (s.acknowledge v).codeTable = s.codeTable := rfl
@[simp] theorem State.acknowledge_lineBuf (v : Word) : (s.acknowledge v).lineBuf = s.lineBuf := rfl
@[simp] theorem State.acknowledge_lzw (v : Word) : (s.acknowledge v).lzw = s.lzw := rfl
@[simp] theorem State.acknowledge_counters (v : Word) : (s.acknowledge v).counters = s.counters := rfl
@[simp] theorem State.acknowledge_packRow (v : Word) : (s.acknowledge v).packRow = s.packRow := rfl
@[simp] theorem State.acknowledge_busyLeft (v : Word) : (s.acknowledge v).busyLeft = s.busyLeft := rfl
@[simp] theorem State.acknowledge_draws (v : Word) : (s.acknowledge v).draws = s.draws := rfl
@[simp] theorem State.acknowledge_hostQ (v : Word) : (s.acknowledge v).hostQ = s.hostQ := rfl
@[simp] theorem State.acknowledge_answers (v : Word) : (s.acknowledge v).answers = s.answers := rfl
@[simp] theorem State.acknowledge_rstPin (v : Word) : (s.acknowledge v).rstPin = s.rstPin := rfl

/-! ### State.dropWrite -/

@[simp] theorem State.dropWrite_params : (s.dropWrite).params = s.params := rfl
@[simp] theorem State.dropWrite_status : (s.dropWrite).status = s.status.drop := rfl
@[simp] theorem State.dropWrite_irqEn : (s.dropWrite).irqEn = s.irqEn := rfl
@[simp] theorem State.dropWrite_args : (s.dropWrite).args = s.args := rfl
@[simp] theorem State.dropWrite_crcState : (s.dropWrite).crcState = s.crcState := rfl
@[simp] theorem State.dropWrite_outCount : (s.dropWrite).outCount = s.outCount := rfl
@[simp] theorem State.dropWrite_errInfo : (s.dropWrite).errInfo = s.errInfo := rfl
@[simp] theorem State.dropWrite_mem : (s.dropWrite).mem = s.mem := rfl
@[simp] theorem State.dropWrite_command : (s.dropWrite).command = s.command := rfl
@[simp] theorem State.dropWrite_latch : (s.dropWrite).latch = s.latch := rfl
@[simp] theorem State.dropWrite_codeTable : (s.dropWrite).codeTable = s.codeTable := rfl
@[simp] theorem State.dropWrite_lineBuf : (s.dropWrite).lineBuf = s.lineBuf := rfl
@[simp] theorem State.dropWrite_lzw : (s.dropWrite).lzw = s.lzw := rfl
@[simp] theorem State.dropWrite_counters : (s.dropWrite).counters = s.counters := rfl
@[simp] theorem State.dropWrite_packRow : (s.dropWrite).packRow = s.packRow := rfl
@[simp] theorem State.dropWrite_busyLeft : (s.dropWrite).busyLeft = s.busyLeft := rfl
@[simp] theorem State.dropWrite_draws : (s.dropWrite).draws = s.draws := rfl
@[simp] theorem State.dropWrite_hostQ : (s.dropWrite).hostQ = s.hostQ := rfl
@[simp] theorem State.dropWrite_answers : (s.dropWrite).answers = s.answers := rfl
@[simp] theorem State.dropWrite_rstPin : (s.dropWrite).rstPin = s.rstPin := rfl

/-! ### State.setArgs -/

@[simp] theorem State.setArgs_params (a : Args) : (s.setArgs a).params = s.params := rfl
@[simp] theorem State.setArgs_status (a : Args) : (s.setArgs a).status = s.status := rfl
@[simp] theorem State.setArgs_irqEn (a : Args) : (s.setArgs a).irqEn = s.irqEn := rfl
@[simp] theorem State.setArgs_args (a : Args) : (s.setArgs a).args = a := rfl
@[simp] theorem State.setArgs_crcState (a : Args) : (s.setArgs a).crcState = s.crcState := rfl
@[simp] theorem State.setArgs_outCount (a : Args) : (s.setArgs a).outCount = s.outCount := rfl
@[simp] theorem State.setArgs_errInfo (a : Args) : (s.setArgs a).errInfo = s.errInfo := rfl
@[simp] theorem State.setArgs_mem (a : Args) : (s.setArgs a).mem = s.mem := rfl
@[simp] theorem State.setArgs_command (a : Args) : (s.setArgs a).command = s.command := rfl
@[simp] theorem State.setArgs_latch (a : Args) : (s.setArgs a).latch = s.latch := rfl
@[simp] theorem State.setArgs_codeTable (a : Args) : (s.setArgs a).codeTable = s.codeTable := rfl
@[simp] theorem State.setArgs_lineBuf (a : Args) : (s.setArgs a).lineBuf = s.lineBuf := rfl
@[simp] theorem State.setArgs_lzw (a : Args) : (s.setArgs a).lzw = s.lzw := rfl
@[simp] theorem State.setArgs_counters (a : Args) : (s.setArgs a).counters = s.counters := rfl
@[simp] theorem State.setArgs_packRow (a : Args) : (s.setArgs a).packRow = s.packRow := rfl
@[simp] theorem State.setArgs_busyLeft (a : Args) : (s.setArgs a).busyLeft = s.busyLeft := rfl
@[simp] theorem State.setArgs_draws (a : Args) : (s.setArgs a).draws = s.draws := rfl
@[simp] theorem State.setArgs_hostQ (a : Args) : (s.setArgs a).hostQ = s.hostQ := rfl
@[simp] theorem State.setArgs_answers (a : Args) : (s.setArgs a).answers = s.answers := rfl
@[simp] theorem State.setArgs_rstPin (a : Args) : (s.setArgs a).rstPin = s.rstPin := rfl

/-! ### State.withQueue -/

@[simp] theorem State.withQueue_params (q : List HostReq) : (s.withQueue q).params = s.params := rfl
@[simp] theorem State.withQueue_status (q : List HostReq) : (s.withQueue q).status = s.status := rfl
@[simp] theorem State.withQueue_irqEn (q : List HostReq) : (s.withQueue q).irqEn = s.irqEn := rfl
@[simp] theorem State.withQueue_args (q : List HostReq) : (s.withQueue q).args = s.args := rfl
@[simp] theorem State.withQueue_crcState (q : List HostReq) : (s.withQueue q).crcState = s.crcState := rfl
@[simp] theorem State.withQueue_outCount (q : List HostReq) : (s.withQueue q).outCount = s.outCount := rfl
@[simp] theorem State.withQueue_errInfo (q : List HostReq) : (s.withQueue q).errInfo = s.errInfo := rfl
@[simp] theorem State.withQueue_mem (q : List HostReq) : (s.withQueue q).mem = s.mem := rfl
@[simp] theorem State.withQueue_command (q : List HostReq) : (s.withQueue q).command = s.command := rfl
@[simp] theorem State.withQueue_latch (q : List HostReq) : (s.withQueue q).latch = s.latch := rfl
@[simp] theorem State.withQueue_codeTable (q : List HostReq) : (s.withQueue q).codeTable = s.codeTable := rfl
@[simp] theorem State.withQueue_lineBuf (q : List HostReq) : (s.withQueue q).lineBuf = s.lineBuf := rfl
@[simp] theorem State.withQueue_lzw (q : List HostReq) : (s.withQueue q).lzw = s.lzw := rfl
@[simp] theorem State.withQueue_counters (q : List HostReq) : (s.withQueue q).counters = s.counters := rfl
@[simp] theorem State.withQueue_packRow (q : List HostReq) : (s.withQueue q).packRow = s.packRow := rfl
@[simp] theorem State.withQueue_busyLeft (q : List HostReq) : (s.withQueue q).busyLeft = s.busyLeft := rfl
@[simp] theorem State.withQueue_draws (q : List HostReq) : (s.withQueue q).draws = s.draws := rfl
@[simp] theorem State.withQueue_hostQ (q : List HostReq) : (s.withQueue q).hostQ = q := rfl
@[simp] theorem State.withQueue_answers (q : List HostReq) : (s.withQueue q).answers = s.answers := rfl
@[simp] theorem State.withQueue_rstPin (q : List HostReq) : (s.withQueue q).rstPin = s.rstPin := rfl

/-! ### State.answer -/

@[simp] theorem State.answer_params (a : HostAns) : (s.answer a).params = s.params := rfl
@[simp] theorem State.answer_status (a : HostAns) : (s.answer a).status = s.status := rfl
@[simp] theorem State.answer_irqEn (a : HostAns) : (s.answer a).irqEn = s.irqEn := rfl
@[simp] theorem State.answer_args (a : HostAns) : (s.answer a).args = s.args := rfl
@[simp] theorem State.answer_crcState (a : HostAns) : (s.answer a).crcState = s.crcState := rfl
@[simp] theorem State.answer_outCount (a : HostAns) : (s.answer a).outCount = s.outCount := rfl
@[simp] theorem State.answer_errInfo (a : HostAns) : (s.answer a).errInfo = s.errInfo := rfl
@[simp] theorem State.answer_mem (a : HostAns) : (s.answer a).mem = s.mem := rfl
@[simp] theorem State.answer_command (a : HostAns) : (s.answer a).command = s.command := rfl
@[simp] theorem State.answer_latch (a : HostAns) : (s.answer a).latch = s.latch := rfl
@[simp] theorem State.answer_codeTable (a : HostAns) : (s.answer a).codeTable = s.codeTable := rfl
@[simp] theorem State.answer_lineBuf (a : HostAns) : (s.answer a).lineBuf = s.lineBuf := rfl
@[simp] theorem State.answer_lzw (a : HostAns) : (s.answer a).lzw = s.lzw := rfl
@[simp] theorem State.answer_counters (a : HostAns) : (s.answer a).counters = s.counters := rfl
@[simp] theorem State.answer_packRow (a : HostAns) : (s.answer a).packRow = s.packRow := rfl
@[simp] theorem State.answer_busyLeft (a : HostAns) : (s.answer a).busyLeft = s.busyLeft := rfl
@[simp] theorem State.answer_draws (a : HostAns) : (s.answer a).draws = s.draws := rfl
@[simp] theorem State.answer_hostQ (a : HostAns) : (s.answer a).hostQ = s.hostQ := rfl
@[simp] theorem State.answer_answers (a : HostAns) : (s.answer a).answers = s.answers ++ [a] := rfl
@[simp] theorem State.answer_rstPin (a : HostAns) : (s.answer a).rstPin = s.rstPin := rfl

end Sys2Proof.Machine
end

