-- ==== Sys2Proof/Laws/Ops.lean ====
section
/-! SUPPORT. One lemma per shared operation that says once what it does: STATUS changes, completion, start checks. -/

namespace Sys2Proof.Machine

/-! ### STATUS -/

/-- `finish` sets DONE and the listed flags, clears BUSY and leaves the rest (R261). -/
theorem Status.foldl_setFlag (flags : List Flag) (f : Status) :
    flags.foldl Status.setFlag f =
      { f with
        trunc := f.trunc || flags.contains .trunc
        short := f.short || flags.contains .short
        eoi := f.eoi || flags.contains .eoi } := by
  induction flags generalizing f with
  | nil => simp
  | cons x xs ih =>
    rw [List.foldl_cons, ih]
    cases x <;> simp [Status.setFlag]

theorem Status.finished_eq (f : Status) (flags : List Flag) :
    f.finished flags =
      { busy := false, done := true, err := f.err, trunc := f.trunc || flags.contains .trunc
        short := f.short || flags.contains .short, eoi := f.eoi || flags.contains .eoi, dropped := f.dropped
        errcode := f.errcode } := by
  rw [Status.finished, Status.foldl_setFlag]

@[simp] theorem Status.finished_busy (f : Status) (l : List Flag) : (f.finished l).busy = false := rfl
@[simp] theorem Status.finished_done (f : Status) (l : List Flag) : (f.finished l).done = true := rfl
@[simp] theorem Status.finished_err (f : Status) (l : List Flag) : (f.finished l).err = f.err := by
  rw [Status.finished_eq]
@[simp] theorem Status.finished_trunc (f : Status) (l : List Flag) :
    (f.finished l).trunc = (f.trunc || l.contains .trunc) := by rw [Status.finished_eq]
@[simp] theorem Status.finished_short (f : Status) (l : List Flag) :
    (f.finished l).short = (f.short || l.contains .short) := by rw [Status.finished_eq]
@[simp] theorem Status.finished_eoi (f : Status) (l : List Flag) : (f.finished l).eoi = (f.eoi || l.contains .eoi) := by
  rw [Status.finished_eq]
@[simp] theorem Status.finished_dropped (f : Status) (l : List Flag) : (f.finished l).dropped = f.dropped := by
  rw [Status.finished_eq]
@[simp] theorem Status.finished_errcode (f : Status) (l : List Flag) : (f.finished l).errcode = f.errcode := by
  rw [Status.finished_eq]

@[simp] theorem Status.raised_busy (f : Status) (c : Byte) : (f.raised c).busy = false := rfl
@[simp] theorem Status.raised_done (f : Status) (c : Byte) : (f.raised c).done = true := rfl
@[simp] theorem Status.raised_err (f : Status) (c : Byte) : (f.raised c).err = true := rfl
@[simp] theorem Status.raised_trunc (f : Status) (c : Byte) : (f.raised c).trunc = f.trunc := rfl
@[simp] theorem Status.raised_short (f : Status) (c : Byte) : (f.raised c).short = f.short := rfl
@[simp] theorem Status.raised_eoi (f : Status) (c : Byte) : (f.raised c).eoi = f.eoi := rfl
@[simp] theorem Status.raised_dropped (f : Status) (c : Byte) : (f.raised c).dropped = f.dropped := rfl
@[simp] theorem Status.raised_errcode (f : Status) (c : Byte) : (f.raised c).errcode = c := rfl

@[simp] theorem Status.started_busy (f : Status) : f.started.busy = true := rfl
@[simp] theorem Status.started_done (f : Status) : f.started.done = false := rfl
@[simp] theorem Status.started_err (f : Status) : f.started.err = false := rfl
@[simp] theorem Status.started_trunc (f : Status) : f.started.trunc = false := rfl
@[simp] theorem Status.started_short (f : Status) : f.started.short = false := rfl
@[simp] theorem Status.started_eoi (f : Status) : f.started.eoi = false := rfl
@[simp] theorem Status.started_dropped (f : Status) : f.started.dropped = f.dropped := rfl
@[simp] theorem Status.started_errcode (f : Status) : f.started.errcode = 0 := rfl

@[simp] theorem Status.drop_busy (f : Status) : f.drop.busy = f.busy := rfl
@[simp] theorem Status.drop_done (f : Status) : f.drop.done = f.done := rfl
@[simp] theorem Status.drop_err (f : Status) : f.drop.err = f.err := rfl
@[simp] theorem Status.drop_trunc (f : Status) : f.drop.trunc = f.trunc := rfl
@[simp] theorem Status.drop_short (f : Status) : f.drop.short = f.short := rfl
@[simp] theorem Status.drop_eoi (f : Status) : f.drop.eoi = f.eoi := rfl
@[simp] theorem Status.drop_dropped (f : Status) : f.drop.dropped = true := rfl
@[simp] theorem Status.drop_errcode (f : Status) : f.drop.errcode = f.errcode := rfl

@[simp] theorem Status.writeOneClear_busy (f : Status) (v : Word) : (f.writeOneClear v).busy = f.busy := rfl
@[simp] theorem Status.writeOneClear_errcode (f : Status) (v : Word) : (f.writeOneClear v).errcode = f.errcode := rfl

/-! ### Completion and start checks -/

@[simp] theorem State.conclude_none (s : State) (out : Nat) (flags : List Flag) :
    s.conclude out none flags = (s.withOut out).finish flags := rfl

@[simp] theorem State.conclude_some (s : State) (out : Nat) (e : CmdError) (flags : List Flag) :
    s.conclude out (some e) flags = (s.withOut out).raise e := rfl

@[simp] theorem firstError_nil : firstError [] = none := rfl

@[simp] theorem firstError_none_cons (cs : List (Option CmdError)) : firstError (none :: cs) = firstError cs := rfl

@[simp] theorem firstError_some_cons (e : CmdError) (cs : List (Option CmdError)) : firstError (some e :: cs) = some e := rfl

/-- No check fails when every one passes. -/
theorem firstError_eq_none (cs : List (Option CmdError)) : firstError cs = none ↔ ∀ c ∈ cs, c = none := by
  simp [firstError]

/-- What `checked` can do: a failing check raises, and otherwise the operation runs. -/
theorem State.checked_cases (s : State) (cs : List (Option CmdError)) (run t : State) (h : s.checked cs run = t) :
    (∃ e, firstError cs = some e ∧ t = s.raise e) ∨ (firstError cs = none ∧ t = run) := by
  cases hc : firstError cs with
  | some e => exact .inl ⟨e, rfl, by simpa [State.checked, hc] using h.symm⟩
  | none => exact .inr ⟨rfl, by simpa [State.checked, hc] using h.symm⟩

theorem State.checked_of_none (s : State) (cs : List (Option CmdError)) (run : State) (h : firstError cs = none) :
    s.checked cs run = run := by
  simp [State.checked, h]

theorem State.checked_of_some (s : State) (cs : List (Option CmdError)) (run : State) (e : CmdError)
    (h : firstError cs = some e) : s.checked cs run = s.raise e := by
  simp [State.checked, h]

end Sys2Proof.Machine
end

