-- ==== Sys2Proof/Laws/Loops.lean ====
section
/-! SUPPORT. The two loops: their equations, their invariants, and where a raising loop stopped. -/

namespace Sys2Proof.Machine

variable {σ : Type}

@[simp] theorem loop_zero (f : Nat → σ → σ) (s : σ) : loop f 0 s = s := rfl

@[simp] theorem loop_succ (f : Nat → σ → σ) (n : Nat) (s : σ) : loop f (n + 1) s = f n (loop f n s) := rfl

/-- A property that every turn keeps holds after the loop. -/
theorem loop_keeps (f : Nat → σ → σ) (P : σ → Prop) (n : Nat) (s : σ) (h0 : P s)
    (hf : ∀ k x, k < n → P x → P (f k x)) : P (loop f n s) := by
  induction n with
  | zero => exact h0
  | succ n ih => exact hf n _ (Nat.lt_succ_self n) (ih (fun k x hk => hf k x (Nat.lt_succ_of_lt hk)))

/-- A property indexed by the number of turns holds after the loop. -/
theorem loop_invariant (f : Nat → σ → σ) (P : Nat → σ → Prop) (n : Nat) (s : σ) (h0 : P 0 s)
    (hf : ∀ k x, k < n → P k x → P (k + 1) (f k x)) : P n (loop f n s) := by
  induction n with
  | zero => exact h0
  | succ n ih => exact hf n _ (Nat.lt_succ_self n) (ih (fun k x hk => hf k x (Nat.lt_succ_of_lt hk)))

/-- Two loops whose turns agree on the states they meet agree. -/
theorem loop_congr (f g : Nat → σ → σ) (n : Nat) (s : σ) (h : ∀ k, k < n → f k (loop f k s) = g k (loop f k s)) :
    loop f n s = loop g n s := by
  induction n with
  | zero => rfl
  | succ n ih =>
    rw [loop_succ, loop_succ, h n (Nat.lt_succ_self n), ih (fun k hk => h k (Nat.lt_succ_of_lt hk))]

@[simp] theorem sweep_zero (f : Nat → σ → σ × Option CmdError) (s : σ) : sweep f 0 s = (s, none) := rfl

theorem sweep_succ_of_none (f : Nat → σ → σ × Option CmdError) (n : Nat) (s s' : σ) (h : sweep f n s = (s', none)) :
    sweep f (n + 1) s = f n s' := by
  simp [sweep, h]

theorem sweep_succ_of_some (f : Nat → σ → σ × Option CmdError) (n : Nat) (s s' : σ) (e : CmdError)
    (h : sweep f n s = (s', some e)) : sweep f (n + 1) s = (s', some e) := by
  simp [sweep, h]

/-- A property that every turn keeps, raising or not, holds after the loop. -/
theorem sweep_keeps (f : Nat → σ → σ × Option CmdError) (P : σ → Prop) (n : Nat) (s : σ) (h0 : P s)
    (hf : ∀ k x, k < n → P x → P (f k x).1) : P (sweep f n s).1 := by
  induction n with
  | zero => exact h0
  | succ n ih =>
    have ih := ih (fun k x hk => hf k x (Nat.lt_succ_of_lt hk))
    rcases h : sweep f n s with ⟨s', e⟩
    rw [h] at ih
    cases e with
    | some e => rw [sweep_succ_of_some f n s s' e h]; exact ih
    | none => rw [sweep_succ_of_none f n s s' h]; exact hf n _ (Nat.lt_succ_self n) ih

/-- A loop none of whose turns raises, under an indexed invariant, ends without an error and with the invariant. -/
theorem sweep_completes (f : Nat → σ → σ × Option CmdError) (P : Nat → σ → Prop) (n : Nat) (s : σ) (h0 : P 0 s)
    (hf : ∀ k x, k < n → P k x → (f k x).2 = none ∧ P (k + 1) (f k x).1) :
    (sweep f n s).2 = none ∧ P n (sweep f n s).1 := by
  induction n with
  | zero => exact ⟨rfl, h0⟩
  | succ n ih =>
    obtain ⟨hn, hp⟩ := ih (fun k x hk => hf k x (Nat.lt_succ_of_lt hk))
    rcases h : sweep f n s with ⟨s', e⟩
    rw [h] at hn hp
    cases hn
    rw [sweep_succ_of_none f n s s' h]
    exact hf n _ (Nat.lt_succ_self n) hp

/-- A loop that stopped by an error did every turn before some turn `k`, and turn `k` raised it. -/
theorem sweep_stopped (f : Nat → σ → σ × Option CmdError) (n : Nat) (s s' : σ) (e : CmdError)
    (h : sweep f n s = (s', some e)) : ∃ k x, k < n ∧ sweep f k s = (x, none) ∧ f k x = (s', some e) := by
  induction n with
  | zero => cases h
  | succ n ih =>
    rcases h' : sweep f n s with ⟨x, e'⟩
    cases e' with
    | some e' =>
      rw [sweep_succ_of_some f n s x e' h'] at h
      obtain ⟨k, y, hk, hs, hf⟩ := ih (h'.trans h)
      exact ⟨k, y, Nat.lt_succ_of_lt hk, hs, hf⟩
    | none =>
      rw [sweep_succ_of_none f n s x h'] at h
      exact ⟨n, x, Nat.lt_succ_self n, h', h⟩

end Sys2Proof.Machine
end

