-- ==== Sys2Proof/Laws/Ram.lean ====
section
/-! SUPPORT. The laws of the sparse RAMs and of MEM: read after write, what a write leaves alone, the canonical form, and which
indices are listed. -/

namespace Sys2Proof.Machine

variable {w : Nat}

@[simp] theorem Ram.lookup_nil (a : Nat) : Ram.lookup ([] : Ram w) a = none := rfl

theorem Ram.lookup_cons (k : Nat) (v : BitVec w) (m : Ram w) (a : Nat) :
    Ram.lookup ((k, v) :: m) a = if k = a then some v else Ram.lookup m a := rfl

@[simp] theorem Ram.lookup_put_self (m : Ram w) (a : Nat) (v : BitVec w) : Ram.lookup (Ram.put m a v) a = some v := by
  induction m with
  | nil => simp [Ram.put, Ram.lookup]
  | cons c m ih =>
    obtain ⟨k, u⟩ := c
    by_cases h1 : a < k
    · simp [Ram.put, Ram.lookup, h1]
    · by_cases h2 : a = k
      · simp [Ram.put, Ram.lookup, h2]
      · have h3 : ¬ k = a := fun h => h2 h.symm
        simp [Ram.put, Ram.lookup, h1, h2, h3, ih]

theorem Ram.lookup_put_ne (m : Ram w) (a b : Nat) (v : BitVec w) (h : b ≠ a) :
    Ram.lookup (Ram.put m a v) b = Ram.lookup m b := by
  have hab : ¬ a = b := fun e => h e.symm
  induction m with
  | nil => simp [Ram.put, Ram.lookup, hab]
  | cons c m ih =>
    obtain ⟨k, u⟩ := c
    by_cases h1 : a < k
    · simp [Ram.put, Ram.lookup, h1, hab]
    · by_cases h2 : a = k
      · subst h2; simp [Ram.put, Ram.lookup, hab]
      · simp [Ram.put, Ram.lookup, h1, h2, ih]

/-- The indices a write lists: the old ones and the written one. -/
theorem Ram.mem_put (m : Ram w) (a : Nat) (v : BitVec w) (c : Nat × BitVec w) (h : c ∈ Ram.put m a v) :
    c = (a, v) ∨ c ∈ m := by
  induction m with
  | nil => simpa [Ram.put] using h
  | cons d m ih =>
    obtain ⟨k, u⟩ := d
    by_cases h1 : a < k
    · simpa [Ram.put, h1] using h
    · by_cases h2 : a = k
      · simp only [Ram.put, if_neg h1, if_pos h2, List.mem_cons] at h ⊢
        tauto
      · simp only [Ram.put, if_neg h1, if_neg h2, List.mem_cons] at h ⊢
        tauto

/-- A write keeps the canonical form. -/
theorem Ram.put_rising (m : Ram w) (a : Nat) (v : BitVec w) (h : Ram.Rising m) : Ram.Rising (Ram.put m a v) := by
  induction m with
  | nil => simp [Ram.put, Ram.Rising]
  | cons d m ih =>
    obtain ⟨k, u⟩ := d
    have hk : ∀ c ∈ m, k < c.1 := fun c hc => (List.pairwise_cons.1 h).1 c hc
    have hm : Ram.Rising m := (List.pairwise_cons.1 h).2
    by_cases h1 : a < k
    · simp only [Ram.put, if_pos h1]
      refine List.pairwise_cons.2 ⟨fun c hc => ?_, h⟩
      rcases List.mem_cons.1 hc with rfl | hc
      · exact h1
      · exact Nat.lt_trans h1 (hk c hc)
    · by_cases h2 : a = k
      · subst h2
        simp only [Ram.put, if_neg h1]
        exact List.pairwise_cons.2 ⟨hk, hm⟩
      · simp only [Ram.put, if_neg h1, if_neg h2]
        refine List.pairwise_cons.2 ⟨fun c hc => ?_, ih hm⟩
        rcases Ram.mem_put m a v c hc with rfl | hc
        · show k < a; omega
        · exact hk c hc

/-- Indices below a bound stay below it. -/
theorem Ram.put_below (m : Ram w) (a : Nat) (v : BitVec w) (bound : Nat) (ha : a < bound) (h : ∀ c ∈ m, c.1 < bound) :
    ∀ c ∈ Ram.put m a v, c.1 < bound := by
  intro c hc
  rcases Ram.mem_put m a v c hc with rfl | hc
  · exact ha
  · exact h c hc

/-! ### MEM -/

@[simp] theorem memRead_memWrite_self (m : Memory) (a : Nat) (v : Byte) : memRead (memWrite m a v) a = v := by
  simp [memRead, memWrite]

theorem memRead_memWrite_ne (m : Memory) (a b : Nat) (v : Byte) (h : b ≠ a) :
    memRead (memWrite m a v) b = memRead m b := by
  simp [memRead, memWrite, Ram.lookup_put_ne m a b v h]

theorem memRead_memWrite (m : Memory) (a b : Nat) (v : Byte) :
    memRead (memWrite m a v) b = if b = a then v else memRead m b := by
  by_cases h : b = a
  · simp [h]
  · simp [h, memRead_memWrite_ne m a b v h]

theorem memWrite_wf (m : Memory) (a : Nat) (v : Byte) (h : Memory.wf m) : Memory.wf (memWrite m a v) :=
  Ram.put_rising m a v h

theorem memWrite_below (m : Memory) (a : Nat) (v : Byte) (bound : Nat) (ha : a < bound) (h : ∀ c ∈ m, c.1 < bound) :
    ∀ c ∈ memWrite m a v, c.1 < bound :=
  Ram.put_below m a v bound ha h

/-- A block write gives its bytes and leaves every other byte alone. -/
theorem memRead_memFill (m : Memory) (base n : Nat) (f : Nat → Byte) (b : Nat) :
    memRead (memFill m base n f) b = if base ≤ b ∧ b < base + n then f (b - base) else memRead m b := by
  induction n with
  | zero =>
    have : ¬ (base ≤ b ∧ b < base + 0) := by omega
    simp only [memFill, loop_zero, if_neg this]
  | succ n ih =>
    have step : memFill m base (n + 1) f = memWrite (memFill m base n f) (base + n) (f n) := rfl
    rw [step, memRead_memWrite, ih]
    by_cases h1 : b = base + n
    · have h2 : base ≤ b ∧ b < base + (n + 1) := by omega
      have h3 : b - base = n := by omega
      simp only [h1, if_true, Nat.le_add_right, true_and]
      simp
    · simp only [if_neg h1]
      by_cases h2 : base ≤ b ∧ b < base + n
      · have h3 : base ≤ b ∧ b < base + (n + 1) := by omega
        simp only [if_pos h2, if_pos h3]
      · have h3 : ¬ (base ≤ b ∧ b < base + (n + 1)) := by omega
        simp only [if_neg h2, if_neg h3]

theorem memFill_wf (m : Memory) (base n : Nat) (f : Nat → Byte) (h : Memory.wf m) : Memory.wf (memFill m base n f) :=
  loop_keeps _ Memory.wf n m h (fun _ x _ hx => memWrite_wf x _ _ hx)

theorem memFill_below (m : Memory) (base n : Nat) (f : Nat → Byte) (bound : Nat) (hb : base + n ≤ bound)
    (h : ∀ c ∈ m, c.1 < bound) : ∀ c ∈ memFill m base n f, c.1 < bound :=
  loop_keeps _ (fun (x : Memory) => ∀ c ∈ x, c.1 < bound) n m h
    (fun k x hk hx => memWrite_below x _ _ bound (by omega) hx)

/-- Nothing is listed after power-on, so the form holds. -/
theorem reset_mem_wf : Memory.wf State.reset.mem := List.Pairwise.nil

end Sys2Proof.Machine
end

