-- ==== Sys2Proof/Laws/Commands.lean ====
section
/-! SUPPORT. What each command can do, said once: which start check failed, or how the operation concluded. -/

namespace Sys2Proof.Machine

/-- A command that reads FORMAT: FORMAT is illegal, a later start check fails, or the operation runs. -/
theorem execUnfilter_cases (s t : State) (h : execUnfilter s = .next t) :
    (formatFor .unfilter s.latch = none ∧ t = s.raise (.format s.latch.format)) ∨
    ∃ f, formatFor .unfilter s.latch = some f ∧
      t = s.checked (rasterChecks s.params s.latch (s.latch.raster f).filteredLen (s.latch.raster f).rawLen)
        (unfilterRun s (s.latch.raster f)) := by
  unfold execUnfilter at h
  split at h
  · next hf => exact .inl ⟨hf, by injection h with h; exact h.symm⟩
  · next f hf => exact .inr ⟨f, hf, by injection h with h; exact h.symm⟩

theorem execFilter_cases (ftype : Nat) (s t : State) (h : execFilter ftype s = .next t) :
    (FilterType.ofCode ftype = none ∧ t = s.raise (.filterType ftype)) ∨
    ∃ ft, FilterType.ofCode ftype = some ft ∧
      ((formatFor .filter s.latch = none ∧ t = s.raise (.format s.latch.format)) ∨
       ∃ f, formatFor .filter s.latch = some f ∧
        t = s.checked (rasterChecks s.params s.latch (s.latch.raster f).rawLen (s.latch.raster f).filteredLen)
          (filterRun s (s.latch.raster f) ftype ft)) := by
  unfold execFilter at h
  split at h
  · next hf => exact .inl ⟨hf, by injection h with h; exact h.symm⟩
  · next ft hft =>
    refine .inr ⟨ft, hft, ?_⟩
    split at h
    · next hf => exact .inl ⟨hf, by injection h with h; exact h.symm⟩
    · next f hf => exact .inr ⟨f, hf, by injection h with h; exact h.symm⟩

theorem execExpand_cases (s t : State) (h : execExpand s = .next t) :
    (formatFor .expand s.latch = none ∧ t = s.raise (.format s.latch.format)) ∨
    ∃ f, formatFor .expand s.latch = some f ∧
      t = s.checked (expandChecks s.params s.latch (s.latch.raster f)) (expandRun s (s.latch.raster f)) := by
  unfold execExpand at h
  split at h
  · next hf => exact .inl ⟨hf, by injection h with h; exact h.symm⟩
  · next f hf => exact .inr ⟨f, hf, by injection h with h; exact h.symm⟩

theorem execPack_cases (s t : State) (h : execPack s = .next t) :
    (formatFor .pack s.latch = none ∧ t = s.raise (.format s.latch.format)) ∨
    ∃ f, formatFor .pack s.latch = some f ∧
      t = s.checked (rasterChecks s.params s.latch (s.latch.raster f).sampleBytes (s.latch.raster f).rawLen)
        (packRun s (s.latch.raster f)) := by
  unfold execPack at h
  split at h
  · next hf => exact .inl ⟨hf, by injection h with h; exact h.symm⟩
  · next f hf => exact .inr ⟨f, hf, by injection h with h; exact h.symm⟩

theorem execAdam7_cases (s t : State) (h : execAdam7 s = .next t) :
    (formatFor .adam7 s.latch = none ∧ t = s.raise (.format s.latch.format)) ∨
    ∃ f, formatFor .adam7 s.latch = some f ∧
      t = s.checked
        (rasterChecks s.params s.latch (adam7Len (s.latch.raster f)) (s.latch.raster f).rawLen
          ++ [lineBufCheck s.params (s.latch.raster f).bpl])
        (adam7Run s (s.latch.raster f)) := by
  unfold execAdam7 at h
  split at h
  · next hf => exact .inl ⟨hf, by injection h with h; exact h.symm⟩
  · next f hf => exact .inr ⟨f, hf, by injection h with h; exact h.symm⟩

theorem execCrcUpdate_cases (s t : State) (h : execCrcUpdate s = .next t) :
    t = s.checked [rangeCheck s.params .src s.latch.src] (crcUpdateRun s) := by
  injection h with h
  exact h.symm

theorem lzwComplete_cases (s t : State) (k : LzwRun) (e : LzwEnd) (h : lzwComplete s k e = .next t) :
    (∃ err, e = .error err ∧ t = (s.withLzw k).conclude k.z.outPos (some err) []) ∨
    (e = .overrun ∧ t = (s.withLzw k).conclude k.z.outPos none [.trunc]) ∨
    (e = .stream ∧ t = (s.withLzw k).conclude k.z.outPos none (streamFlags k.z s.latch.dst.len)) := by
  cases e with
  | stream => exact .inr (.inr ⟨rfl, by injection h with h; exact h.symm⟩)
  | overrun => exact .inr (.inl ⟨rfl, by injection h with h; exact h.symm⟩)
  | error err => exact .inl ⟨err, rfl, by injection h with h; exact h.symm⟩
  | unbounded => cases h

/-- What LZW_DECODE can do: a start check fails, the minimum code size cannot be read or is not 2..8, or the loop ran. -/
theorem execLzwDecode_cases (s t : State) (h : execLzwDecode s = .next t) :
    (∃ e, firstError (srcDstChecks s.params s.latch) = some e ∧ t = s.raise e) ∨
    (firstError (srcDstChecks s.params s.latch) = none ∧
      ((∃ e, srcByte s.mem s.latch.src 0 = .error e ∧ t = s.conclude 0 (some e) []) ∨
       ∃ b, srcByte s.mem s.latch.src 0 = .ok b ∧
        (((b.toNat < 2 ∨ 8 < b.toNat) ∧ t = s.conclude 0 (some (.lzwMincode b.toNat)) []) ∨
         (2 ≤ b.toNat ∧ b.toNat ≤ 8 ∧ lzwDecodeFrom s b.toNat = .next t)))) := by
  unfold execLzwDecode at h
  split at h
  · next e he => exact .inl ⟨e, he, by injection h with h; exact h.symm⟩
  · next he =>
    refine .inr ⟨he, ?_⟩
    unfold lzwRun at h
    split at h
    · next e hb => exact .inl ⟨e, hb, by injection h with h; exact h.symm⟩
    · next b hb =>
      refine .inr ⟨b, hb, ?_⟩
      split at h
      · next hm => exact .inl ⟨hm, by injection h with h; exact h.symm⟩
      · next hm => exact .inr ⟨by omega, by omega, h⟩

end Sys2Proof.Machine
end

