-- ==== Sys2Proof/Laws/PerInstr.lean ====
section
/-! SUPPORT. Per-command facts about the encoding, one lemma per constructor of `Instr`. -/

namespace Sys2Proof.Laws

/-- A well-formed command's word has RES 0 (it is below 2^7) and its opcode in bits 3:0 and FTYPE above them (R80, R81). -/
def EncodeFits.Statement (i : Instr) : Prop :=
  i.wf = true → (encode i).toNat = opcodeOf i + ftypeOf i * 16 ∧ (encode i).toNat < 128

theorem EncodeFits.nop : EncodeFits.Statement .nop := fun _ => by decide
theorem EncodeFits.lzwDecode : EncodeFits.Statement .lzwDecode := fun _ => by decide
theorem EncodeFits.crcInit : EncodeFits.Statement .crcInit := fun _ => by decide
theorem EncodeFits.crcUpdate : EncodeFits.Statement .crcUpdate := fun _ => by decide
theorem EncodeFits.unfilter : EncodeFits.Statement .unfilter := fun _ => by decide
theorem EncodeFits.filter (ftype : Nat) : EncodeFits.Statement (.filter ftype) := by
  intro h
  have h8 : ftype < 8 := by simpa [Instr.wf] using h
  simp only [encode, opcodeOf, ftypeOf, BitVec.toNat_ofNat]
  omega
theorem EncodeFits.expand : EncodeFits.Statement .expand := fun _ => by decide
theorem EncodeFits.pack : EncodeFits.Statement .pack := fun _ => by decide
theorem EncodeFits.adam7Deinterlace : EncodeFits.Statement .adam7Deinterlace := fun _ => by decide

end Sys2Proof.Laws
end

