-- ==== Sys2Proof/Laws/Safety.lean ====
section
/-! SUPPORT. The model's start checks and samples in the words of the claims, and the small lemmas of the LZW reference. -/

namespace Sys2Proof.Machine

/-! ### Start checks -/

@[simp] theorem rangeCheck_eq_none (p : Params) (id : RegionId) (r : Region) :
    rangeCheck p id r = none ↔ InMem p r.base r.len := by
  simp only [rangeCheck, Region.inRange, InMem, decide_eq_true_eq, ite_eq_left_iff, reduceCtorEq, imp_false, Decidable.not_not]

@[simp] theorem overlapCheck_eq_none (id : RegionId) (r d : Region) :
    overlapCheck id r d = none ↔ Apart r.base r.len d.base d.len := by
  simp only [overlapCheck, Region.overlaps, Apart, decide_eq_true_eq, ite_eq_right_iff, reduceCtorEq, imp_false]
  omega

@[simp] theorem srcShortCheck_eq_none (L : Args) (n : Nat) : srcShortCheck L n = none ↔ n ≤ L.srcLen.toNat := by
  simp [srcShortCheck]

@[simp] theorem dstShortCheck_eq_none (L : Args) (n : Nat) : dstShortCheck L n = none ↔ n ≤ L.dstLen.toNat := by
  simp [dstShortCheck]

@[simp] theorem lineBufCheck_eq_none (p : Params) (n : Nat) : lineBufCheck p n = none ↔ n ≤ p.lineBufBytes := by
  simp [lineBufCheck]

/-- The model's rounding up is the claims' (R9). -/
@[simp] theorem ceilDiv_eight (n : Nat) : ceilDiv n 8 = (n + 7) / 8 := rfl

/-! ### Samples -/

/-- At the depths of R191 the model's samples are the claims'. -/
theorem rowSample_eq_rowNumber (row : Nat → Byte) (f : PixFmt) (x j : Nat) (h : f.depth ≤ 8 ∨ f.depth = 16) :
    rowSample row f x j = rowNumber row f x j := by
  unfold rowSample rowNumber subByte
  rw [Nat.shiftRight_eq_div_pow]
  rcases h with h | h
  · rcases Nat.lt_or_eq_of_le h with h | h
    · simp only [h, if_true, if_neg (show f.depth ≠ 16 by omega), if_neg (show f.depth ≠ 8 by omega)]
    · simp [h]
  · simp [h, Nat.mul_comm]

theorem sample_eq_sampleAt (s : State) (base : Nat) (r : Raster) (y x j : Nat) (h : r.fmt.depth ≤ 8 ∨ r.fmt.depth = 16) :
    sample s.mem base r.w r.fmt y x j = s.sampleAt base r y x j :=
  rowSample_eq_rowNumber _ _ _ _ h

/-! ### The LZW reference -/

@[simp] theorem LzwPoint.next_start (m : Nat) : (LzwPoint.start m).next m = 2 ^ m + 2 := rfl

@[simp] theorem LzwPoint.emit_pos (m : Nat) (z : LzwPoint) (s : List Byte) : (z.emit m s).pos = z.pos + z.width := by
  unfold LzwPoint.emit; split <;> (try split) <;> rfl

@[simp] theorem LzwPoint.emit_prev (m : Nat) (z : LzwPoint) (s : List Byte) : (z.emit m s).prev = some s := by
  unfold LzwPoint.emit; split <;> (try split) <;> rfl

@[simp] theorem LzwPoint.emit_out (m : Nat) (z : LzwPoint) (s : List Byte) : (z.emit m s).out = z.out ++ s := by
  unfold LzwPoint.emit; split <;> (try split) <;> rfl

/-- The output never exceeds DST (R132). -/
theorem lzwReference_length_le (m : Nat) (d : List Byte) (dstLen n : Nat) (z : LzwPoint) (h : z.out.length ≤ dstLen) :
    (lzwReference m d dstLen n z).1.length ≤ dstLen := by
  induction n generalizing z with
  | zero => exact h
  | succ n ih =>
    simp only [lzwReference]
    split
    · exact h
    split
    · exact ih _ h
    split
    · exact h
    split
    · exact h
    split
    · exact h
    · exact ih _ (by simp only [LzwPoint.emit_out, List.length_append]; omega)

end Sys2Proof.Machine
end

