-- ==== Sys2Proof/Laws/Step.lean ====
section
/-! SUPPORT. What a step can do, said once: reset, the completion of the running command, or a turn of the host. -/

namespace Sys2Proof.Machine

/-- The host's turn: nothing to serve, a held transaction, or one transaction served. -/
theorem State.hostTurn_cases (s t : State) (h : s.hostTurn = .next t) :
    (s.hostQ = [] ∧ t = s) ∨
    ∃ q rest, s.hostQ = q :: rest ∧
      ((q.held s.status.busy = true ∧ t = s) ∨ (q.held s.status.busy = false ∧ s.serve q rest = .next t)) := by
  unfold State.hostTurn at h
  split at h
  · next hq => exact .inl ⟨hq, by injection h with h; exact h.symm⟩
  · next q rest hq =>
    refine .inr ⟨q, rest, hq, ?_⟩
    split at h
    · next hh => exact .inl ⟨hh, by injection h with h; exact h.symm⟩
    · next hh => exact .inr ⟨by simpa using hh, h⟩

/-- One transaction served: which one, and what it left. -/
theorem State.serve_cases (s t : State) (q : HostReq) (rest : List HostReq) (h : s.serve q rest = .next t) :
    (∃ off v, q = .wr off v ∧ portOffsetOk off = true ∧ t = (s.withQueue rest).portWrite off v) ∨
    (∃ off, q = .rd off ∧ portOffsetOk off = true ∧ t = (s.withQueue rest).portRead off) ∨
    (∃ a b, q = .memw a b ∧ a < s.params.memBytes ∧ t = (s.withQueue rest).withMem (memWrite s.mem a b)) ∨
    (∃ a, q = .memr a ∧ a < s.params.memBytes ∧ t = (s.withQueue rest).answer (.mem a (s.readByte a))) ∨
    (q = .wait ∧ t = (if s.status.busy then s else s.withQueue rest).portRead (offsetOf .status)) := by
  cases q with
  | wr off v =>
    simp only [State.serve] at h
    split at h
    · next hp => exact .inl ⟨off, v, rfl, hp, by injection h with h; exact h.symm⟩
    · cases h
  | rd off =>
    simp only [State.serve] at h
    split at h
    · next hp => exact .inr (.inl ⟨off, rfl, hp, by injection h with h; exact h.symm⟩)
    · cases h
  | portOther off bytes => simp [State.serve] at h
  | memw a b =>
    simp only [State.serve] at h
    split at h
    · next hp => exact .inr (.inr (.inl ⟨a, b, rfl, hp, by injection h with h; exact h.symm⟩))
    · cases h
  | memr a =>
    simp only [State.serve] at h
    split at h
    · next hp => exact .inr (.inr (.inr (.inl ⟨a, rfl, hp, by injection h with h; exact h.symm⟩)))
    · cases h
  | wait =>
    simp only [State.serve] at h
    exact .inr (.inr (.inr (.inr ⟨rfl, by injection h with h; exact h.symm⟩)))

/-- A write of the register port: ignored, a register's own effect, or dropped. -/
theorem State.portWrite_cases (s : State) (off : Nat) (v : Word) :
    (regAt off = none ∧ s.portWrite off v = s) ∨ ∃ r, regAt off = some r ∧ s.portWrite off v = s.regWrite r v := by
  cases h : regAt off with
  | none => exact .inl ⟨rfl, by simp [State.portWrite, h]⟩
  | some r => exact .inr ⟨r, rfl, by simp [State.portWrite, h]⟩

/-- A read of the register port changes the answers and, for a free draw, the draw counter. -/
theorem State.portRead_cases (s : State) (off : Nat) :
    (regAt off = none ∧ s.portRead off = s.answer (.reg off 0)) ∨
    ∃ r, regAt off = some r ∧
      (((s.status.busy && openWhileBusy r) = true ∧
        s.portRead off = { s.answer (.reg off (Config.busyRead s.draws)) with draws := s.draws + 1 }) ∨
       ((s.status.busy && openWhileBusy r) = false ∧ s.portRead off = s.answer (.reg off (s.regValue r)))) := by
  cases h : regAt off with
  | none => exact .inl ⟨rfl, by simp [State.portRead, h]⟩
  | some r =>
    refine .inr ⟨r, rfl, ?_⟩
    cases hb : s.status.busy && openWhileBusy r with
    | true => exact .inl ⟨rfl, by simp [State.portRead, h, hb]⟩
    | false => exact .inr ⟨rfl, by simp [State.portRead, h, hb]⟩

/-- The completion step: an illegal word, or the decoded command. -/
theorem runCommand_cases (s t : State) (h : runCommand s = .next t) :
    (∃ why, decode s.command = .error why ∧ t = s.illegalCommand) ∨ ∃ i, decode s.command = .ok i ∧ exec i s = .next t := by
  unfold runCommand at h
  split at h
  · next i hi => exact .inr ⟨i, hi, h⟩
  · next why hw => exact .inl ⟨why, hw, by injection h with h; exact h.symm⟩

/-- A step with `rst` low: the completion step, a BUSY step of waiting, or the host's turn at an idle block. -/
theorem advance_cases (s t : State) (h : advance s = .next t) :
    (s.status.busy = true ∧ s.busyLeft = 0 ∧ runCommand s = .next t) ∨
    (∃ n, s.status.busy = true ∧ s.busyLeft = n + 1 ∧ State.hostTurn { s with busyLeft := n } = .next t) ∨
    (s.status.busy = false ∧ s.hostTurn = .next t) := by
  unfold advance at h
  split at h
  · next hb =>
    split at h
    · next hl => exact .inl ⟨hb, hl, h⟩
    · next n hl => exact .inr (.inl ⟨n, hb, hl, h⟩)
  · next hb => exact .inr (.inr ⟨by simpa using hb, h⟩)

/-- Everything a step can do. -/
theorem step_cases (s t : State) (h : step s = .next t) :
    (∃ rest, s.rstPin = true :: rest ∧ t = State.assertReset { s with rstPin := rest }) ∨
    (s.rstPin = [] ∧ advance s = .next t) ∨
    (∃ rest, s.rstPin = false :: rest ∧ advance { s with rstPin := rest } = .next t) := by
  unfold step stepOnce at h
  split at h
  · next hr => exact .inr (.inl ⟨hr, h⟩)
  · next rest hr => exact .inl ⟨rest, hr, by injection h with h; exact h.symm⟩
  · next rest hr => exact .inr (.inr ⟨rest, hr, h⟩)

end Sys2Proof.Machine
end

