-- ==== Sys2Proof/Tests/Slice0.lean ====
section
/-! SUPPORT. Tests of the model: decoding of written words, commands on the vectors of spec/95_test_vectors.md, and for each
statement with hypotheses a concrete case that meets them. -/

namespace Sys2Proof.Tests

open Sys2Proof.Machine

/-! ### Small states -/

/-- Bytes at consecutive addresses. -/
def bytes (base : Nat) : List Nat → Memory
  | [] => []
  | b :: bs => (base, BitVec.ofNat 8 b) :: bytes (base + 1) bs

/-- SRC at 0, DST at 0x40, an image of `w` by `h` pixels. -/
def img (srcLen dstLen w h fmt : Nat) : Args :=
  { Args.reset with
    srcLen := BitVec.ofNat 32 srcLen, dstAddr := 0x40, dstLen := BitVec.ofNat 32 dstLen, width := BitVec.ofNat 32 w
    height := BitVec.ofNat 32 h, format := BitVec.ofNat 32 fmt }

/-- An idle block with 4096 bytes of MEM and a line buffer of 256 bytes. -/
def idle : State := { State.reset with params := ⟨4095, 255⟩ }

/-- A block that runs a command with latches `L`, at its completion step. -/
def small (L : Args) (m : Memory) : State :=
  { idle with latch := L, mem := m, status := { Status.reset with busy := true } }

/-- STATUS, OUT_COUNT, ERR_INFO and the first `n` bytes at 0x40 after a command. -/
def after (i : Instr) (s : State) (n : Nat) : Option (Nat × Nat × Nat × List Nat) :=
  match exec i s with
  | .next t =>
    some (t.status.word.toNat, t.outCount.toNat, t.errInfo.toNat, (List.range n).map (fun k => (t.readByte (0x40 + k)).toNat))
  | .fault _ => none
  | .refused _ => none

/-- A block with host transactions to come. -/
def asked (q : List HostReq) : State := { idle with hostQ := q }

/-- A block that runs CRC_UPDATE and stays BUSY for one more step, with host transactions to come. -/
def askedBusy (q : List HostReq) : State :=
  { idle with hostQ := q, command := 3, status := { Status.reset with busy := true }, busyLeft := 1 }

/-! ### Well-formedness and decoding -/

theorem test_wf_refuses_wide_ftype : (Instr.filter 8).wf = false := by decide
theorem test_wf_accepts_widest_ftype : (Instr.filter 7).wf = true := by decide

/-! Words written out bit by bit from R80: RES in bits 31:7, FTYPE in bits 6:4, OP in bits 3:0. -/

theorem test_decode_nop : decode 0b0000000000000000000000000_000_0000 = .ok .nop := by decide
theorem test_decode_lzw : decode 0b0000000000000000000000000_000_0001 = .ok .lzwDecode := by decide
theorem test_decode_crc_init : decode 0b0000000000000000000000000_000_0010 = .ok .crcInit := by decide
theorem test_decode_crc_update : decode 0b0000000000000000000000000_000_0011 = .ok .crcUpdate := by decide
theorem test_decode_unfilter : decode 0b0000000000000000000000000_000_0100 = .ok .unfilter := by decide
theorem test_decode_filter_up : decode 0b0000000000000000000000000_010_0101 = .ok (.filter 2) := by decide
theorem test_decode_filter_widest : decode 0b0000000000000000000000000_111_0101 = .ok (.filter 7) := by decide
theorem test_decode_expand : decode 0b0000000000000000000000000_000_0110 = .ok .expand := by decide
theorem test_decode_pack : decode 0b0000000000000000000000000_000_0111 = .ok .pack := by decide
theorem test_decode_adam7 : decode 0b0000000000000000000000000_000_1000 = .ok .adam7Deinterlace := by decide
theorem test_decode_reserved_opcode : decode 0b0000000000000000000000000_000_1111 = .error .reservedOpcode := by decide
theorem test_decode_reserved_bits : decode 0b1000000000000000000000000_000_0001 = .error .reservedBits := by decide
theorem test_decode_stray_ftype : decode 0b0000000000000000000000000_001_0100 = .error .strayFtype := by decide
theorem test_decode_table_word : decodeTableWord 32 0x45 = some (.filter 4) := by decide

/-! ### Commands -/

/-- R250's example. -/
theorem test_nop :
    after .nop { small (img 0 0 0 0 0) [] with outCount := 5 } 0 = some (0x02, 0, 0, []) := by decide +kernel

/-- V-LZW-2: a code equal to the next code to be assigned. -/
theorem test_lzw_next_code :
    after .lzwDecode (small (img 5 4 0 0 0) (bytes 0 [2, 2, 0x8C, 0x53, 0])) 4 = some (0x22, 4, 0, [1, 1, 1, 1]) := by
  decide +kernel

/-- V-LZW-3: the overflowing code is not written. -/
theorem test_lzw_overrun :
    after .lzwDecode (small (img 5 3 0 0 0) (bytes 0 [2, 2, 0x8C, 0x53, 0] ++ bytes 0x40 [238, 238, 238, 238])) 4 =
      some (0x0A, 3, 0, [1, 1, 1, 238]) := by decide +kernel

/-- R103's example. -/
theorem test_crc_init :
    (match exec .crcInit { small (img 0 0 0 0 0) [] with crcState := 0x12345678 } with
      | .next t => some (t.crcState, t.regValue .crcResult)
      | .fault _ => none
      | .refused _ => none) = some (0xFFFFFFFF, 0) := by decide +kernel

/-- R104's example: the four bytes of IEND. -/
theorem test_crc_update :
    (match exec .crcUpdate (small (img 4 0 0 0 0) (bytes 0 [0x49, 0x45, 0x4E, 0x44])) with
      | .next t => some (t.crcState, t.regValue .crcResult, t.outCount)
      | .fault _ => none
      | .refused _ => none) = some (0x51BD9F7D, 0xAE426082, 4) := by decide +kernel

/-- V-FLT-1: Sub, then Up. -/
theorem test_unfilter :
    after .unfilter (small (img 6 4 2 2 0x800) (bytes 0 [1, 0x0A, 5, 2, 1, 1])) 4 = some (0x02, 2, 0, [0x0A, 0x0F, 0x0B, 0x10]) := by
  decide +kernel

/-- R161: a type byte above 4 on the second row. -/
theorem test_unfilter_bad_type :
    after .unfilter (small (img 6 4 2 2 0x800) (bytes 0 [1, 0x0A, 5, 5, 1, 1] ++ bytes 0x40 [0, 0, 9, 9])) 4 =
      some (0x906, 1, 5, [0x0A, 0x0F, 9, 9]) := by decide +kernel

/-- V-FLT-4: Paeth over an RGB image. -/
theorem test_filter_paeth :
    after (.filter 4) (small (img 12 14 2 2 0x802) (bytes 0 [1, 2, 3, 4, 5, 6, 7, 8, 9, 0xFA, 0xFB, 0xFC])) 14 =
      some (0x02, 2, 0, [4, 1, 2, 3, 3, 3, 3, 4, 6, 6, 6, 0xF3, 0xF3, 0xF3]) := by decide +kernel

/-- R82: FTYPE 5 is refused before FORMAT is read. -/
theorem test_filter_type_five :
    after (.filter 5) (small (img 0 0 0 0 0) []) 0 = some (0x906, 0, 5, []) := by decide +kernel

/-- V-PIX-2: two-bit gray. -/
theorem test_expand_gray2 :
    after .expand (small (img 1 16 4 1 0x200) (bytes 0 [0x1B])) 16 =
      some (0x02, 4, 0, [0, 0, 0, 0xFF, 0x55, 0x55, 0x55, 0xFF, 0xAA, 0xAA, 0xAA, 0xFF, 0xFF, 0xFF, 0xFF, 0xFF]) := by
  decide +kernel

/-- R196: RGBA of depth 16 keeps the high byte of each sample. -/
theorem test_expand_rgba16 :
    after .expand (small (img 8 4 1 1 0x1006) (bytes 0 [1, 2, 3, 4, 5, 6, 7, 8])) 4 = some (0x02, 1, 0, [1, 3, 5, 7]) := by
  decide +kernel

/-- V-PIX-12: one-bit gray, ten pixels. -/
theorem test_pack_bits :
    after .pack (small (img 10 2 10 1 0x100) (bytes 0 [1, 0, 1, 1, 0, 0, 1, 1, 1, 0])) 2 = some (0x02, 1, 0, [0xB3, 0x80]) := by
  decide +kernel

/-- R210: a sample that does not fit leaves its row unwritten. -/
theorem test_pack_range :
    after .pack (small (img 2 1 2 1 0x100) (bytes 0 [1, 2] ++ bytes 0x40 [238])) 1 = some (0xB06, 0, 2, [238]) := by decide +kernel

/-- V-A7-2: passes 1, 6 and 7 of a 2 by 2 image. -/
theorem test_adam7 :
    after .adam7Deinterlace (small (img 7 4 2 2 0x800) (bytes 0 [0, 1, 0, 2, 0, 3, 4])) 4 = some (0x02, 3, 0, [1, 2, 3, 4]) := by
  decide +kernel

/-- R235: the bit-level scatter of a one-bit row. -/
theorem test_adam7_bits :
    after .adam7Deinterlace (small (img 4 1 2 1 0x100) (bytes 0 [0, 0x80, 0, 0x80])) 1 = some (0x02, 2, 0, [0xC0]) := by
  decide +kernel

/-! ### Witnesses

For each statement with hypotheses, and each of its clauses, a concrete case that meets them. -/

theorem witness_DecodeAndEncodeAgree : decode 0x75 = .ok (.filter 7) ∧ (Instr.filter 7).wf = true ∧ encode (.filter 7) = 0x75 := by
  decide

/-- The illegal words nearest to legal ones: RES, OP and FTYPE; and a legal word that its row selects. -/
theorem witness_DecodeIsTheOpcodeTable :
    decode 0x80 = .error .reservedBits ∧ decode 0x09 = .error .reservedOpcode ∧ decode 0x10 = .error .strayFtype ∧
    decode 0x75 = .ok (.filter 7) ∧ rowOf (.filter 7) ∈ opcodeTable ∧ (rowOf (.filter 7)).selects 0x75 = true := by decide

/-- `rst` low by an empty list, and by a listed level. -/
theorem witness_StepRunsTheLatchedCommand :
    (idle.aboutToRun 0x08).status.busy = true ∧ (idle.aboutToRun 0x08).busyLeft = 0 ∧ (idle.aboutToRun 0x08).rstPin = [] ∧
    ({ idle.aboutToRun 0x08 with rstPin := [false, true] } : State).rstPin = false :: [true] ∧
    decode (idle.aboutToRun 0x08).command = .ok .adam7Deinterlace := by decide

theorem witness_IllegalWordCompletesWithError :
    (asked [.wr 0 0x80]).rstPin = [] ∧ (asked [.wr 0 0x80]).status.busy = false ∧ (asked [.wr 0 0x80]).hostQ = [.wr 0x00 0x80] ∧
    (0x80 : Word).toNat / 128 ≠ 0 ∧ 9 ≤ (0x09 : Word).toNat % 16 ∧
    ((0x10 : Word).toNat % 16 ≠ 5 ∧ (0x10 : Word).toNat / 16 % 8 ≠ 0) := by decide

theorem witness_CmdWriteStarts :
    (asked [.wr 0 1, .wait]).rstPin = [] ∧ (asked [.wr 0 1, .wait]).status.busy = false ∧
    (asked [.wr 0 1, .wait]).hostQ = .wr 0x00 1 :: [.wait] := by decide

theorem witness_RunningCommandCompletes :
    (askedBusy []).status.busy = true ∧ (askedBusy []).rstPin = [] ∧ (askedBusy []).hostQ = [] ∧
    decode (askedBusy []).command = .ok .crcUpdate ∧
    decode ({ askedBusy [] with command := 9 } : State).command = .error .reservedOpcode := by decide

theorem witness_CompletionRaisesIrq :
    ∃ t, exec .nop (small (img 0 0 0 0 0) []) = .next t := ⟨_, rfl⟩

/-- Every kind of transaction, at the ends of its range. -/
theorem witness_LegalHostNeverStops :
    (asked [.wr 0xFC 1, .rd 0, .memw 4095 1, .memr 4095, .wait]).hostLegal := by
  intro q hq
  simp only [asked, idle, List.mem_cons, List.not_mem_nil, or_false] at hq
  rcases hq with rfl | rfl | rfl | rfl | rfl <;> simp [HostReq.legal, Params.memBytes, asked, idle]

theorem witness_StatusRegister :
    (asked [.wr 4 0x7E]).hostReady ∧ (asked [.wr 4 0x7E]).hostQ = .wr 0x04 0x7E :: [] ∧ (askedBusy [.wr 4 0x40]).hostReady ∧
    (asked [.wr 8 1]).hostReady ∧ (asked [.wr 8 1]).hostQ = .wr 0x08 1 :: [] := by
  unfold State.hostReady; decide

/-- The first and the last register, and one argument register. -/
theorem witness_IdleReadIsExact :
    (asked [.rd 0x50]).hostReady ∧ (asked [.rd 0x50]).status.busy = false ∧
    (asked [.rd 0x50]).hostQ = .rd (offsetOf .errInfo) :: [] ∧ (asked [.rd 0x50]).hostQ = .rd 0x50 :: [] ∧
    (0x00, 0) ∈ registerMap (asked []) ∧ (0x50, 0) ∈ registerMap (asked []) ∧
    (0x14, 0x40) ∈ registerMap { asked [] with args := img 1 1 1 1 0 } := by unfold State.hostReady; decide

theorem witness_WrittenRegisterReadsBack :
    (asked [.wr 0x40 0x12345]).hostReady ∧ (asked [.wr 0x40 0x12345]).status.busy = false ∧
    (asked [.wr 0x40 0x12345]).hostQ = .wr (offsetOf .tkey2) 0x12345 :: [] ∧
    (asked [.wr 0x08 3]).hostQ = .wr (offsetOf .ctrl) 3 :: [] ∧ (asked [.wr 0x44 3]).hostQ = .wr (offsetOf .crcState) 3 :: [] ∧
    (asked [.wr 0x50 3]).hostQ = .wr (offsetOf .errInfo) 3 :: [] ∧
    (0x40, { Args.reset with tkey2 := 0x2345 }) ∈ argumentWrites (asked [.wr 0x40 0x12345]).args 0x12345 ∧
    (0x0C, { Args.reset with srcAddr := 5 }) ∈ argumentWrites (asked [.wr 0x0C 5]).args 5 ∧
    (asked [.wr 0x0C 5]).hostQ = .wr 0x0C 5 :: [] := by unfold State.hostReady; decide

theorem witness_WaitPollsStatus :
    (asked [.wait]).hostReady ∧ (asked [.wait]).hostQ = .wait :: [] ∧ (askedBusy [.wait]).hostReady := by
  unfold State.hostReady; decide

theorem witness_UnmappedOffsetsAreEmpty :
    (asked [.rd 0x54]).hostReady ∧ (asked [.rd 0x54]).hostQ = .rd 0x54 :: [] ∧ (asked [.wr 0xFC 1]).hostReady ∧
    (asked [.wr 0xFC 1]).hostQ = .wr 0xFC 1 :: [] ∧ 0x54 % 4 = 0 ∧ 0x50 < 0x54 ∧ 0xFC % 4 = 0 := by
  unfold State.hostReady; decide

theorem askedBusy_statusOk (q : List HostReq) : (askedBusy q).StatusOk where
  busyClear := fun _ => ⟨rfl, rfl, rfl, rfl, rfl, rfl⟩
  busyResults := fun _ => ⟨rfl, rfl⟩
  truncShort := fun h => by simp [askedBusy, Status.reset] at h
  errAlone := fun h => by simp [askedBusy, Status.reset] at h
  errCode := fun h => by simp [askedBusy, Status.reset] at h
  codeRange := by simp [askedBusy, Status.reset]

/-- Each clause at the first and last offset of its range. -/
theorem witness_WritesWhileBusy (q : List HostReq) :
    (askedBusy q).StatusOk ∧ (askedBusy q).rstPin = [] ∧ (askedBusy q).status.busy = true ∧ (askedBusy q).busyLeft = 0 + 1 ∧
    (askedBusy q).hostQ = q ∧ offsetOf .srcAddr = 0x0C ∧ offsetOf .tkey2 = 0x40 ∧ offsetOf .trnsLen < 0x38 ∧ offsetOf .tkey0 = 0x38 :=
  ⟨askedBusy_statusOk q, rfl, rfl, rfl, rfl, rfl, rfl, by decide, rfl⟩

theorem witness_ReadsWhileBusy :
    (askedBusy [.rd 0x44]).rstPin = [] ∧ (askedBusy [.rd 0x44]).status.busy = true ∧ (askedBusy [.rd 0x44]).busyLeft = 0 + 1 ∧
    (askedBusy [.rd 0x44]).hostQ = .rd (offsetOf .crcState) :: [] ∧ (askedBusy [.rd 0x50]).hostQ = .rd (offsetOf .errInfo) :: [] ∧
    (askedBusy [.rd 0x40]).hostQ = .rd (offsetOf .tkey2) :: [] ∧ (askedBusy [.rd 0]).hostQ = .rd (offsetOf .cmd) :: [] := by decide

theorem witness_CommandIssueHazard :
    (asked [.wr 0 0, .wr 0 2]).rstPin = [] ∧ (asked [.wr 0 0, .wr 0 2]).status.busy = false ∧
    (asked [.wr 0 0, .wr 0 2]).hostQ = .wr 0x00 0 :: .wr 0x00 2 :: [] ∧
    ∃ t u, step (asked [.wr 0 0, .wr 0 2]) = .next t ∧ step { t with busyLeft := 0 } = .next u :=
  ⟨rfl, rfl, rfl, _, _, rfl, rfl⟩

theorem witness_MemAccessHeldWhileBusy :
    (askedBusy [.memr 4095]).rstPin = [] ∧ (askedBusy [.memr 4095]).status.busy = true ∧
    (askedBusy [.memr 4095]).hostQ = .memr 4095 :: [] ∧ 4095 < (askedBusy [.memr 4095]).params.memBytes ∧
    (asked [.memw 0 7]).status.busy = false ∧ (asked [.memw 0 7]).hostQ = .memw 0 7 :: [] ∧
    (∃ t, step (askedBusy [.memr 4095]) = .next t) ∧
    (∃ t, step { askedBusy [.memr 4095] with busyLeft := 0 } = .next t) :=
  ⟨rfl, rfl, rfl, by decide, rfl, rfl, ⟨_, rfl⟩, ⟨_, rfl⟩⟩

/-- The last offset and address inside the interface, and the first outside. -/
theorem witness_OutsideTheInterfaceIsRefused :
    (asked [.wr 0xFD 0]).hostReady ∧ 0xFD % 4 ≠ 0 ∧ (asked [.wr 0xFD 0]).hostQ = .wr 0xFD 0 :: [] ∧ 0xFC < 0x100 ∧
    (asked [.rd 0x100]).hostQ = .rd 0x100 :: [] ∧ (asked [.portOther 0 2]).hostQ = .portOther 0 2 :: [] ∧
    (asked [.memr 4096]).hostReady ∧ (asked [.memr 4096]).status.busy = false ∧
    (asked [.memr 4096]).params.memBytes ≤ 4096 ∧ (asked [.memw 4095 1]).hostQ = .memw 4095 1 :: [] ∧
    4095 < (asked [.memw 4095 1]).params.memBytes := by unfold State.hostReady; decide

theorem witness_ResetRegisterValues : ({ askedBusy [] with rstPin := [true] } : State).rstPin = true :: [] := rfl

/-- An idle block; a running command without DST; one with DST; an illegal word. -/
theorem witness_RstAbandonsTheCommand :
    ({ asked [.memr 0] with rstPin := [true] } : State).status.busy = false ∧
    decode ({ askedBusy [.memr 0] with rstPin := [true] } : State).command = .ok .crcUpdate ∧
    decode ({ askedBusy [.memr 0] with rstPin := [true], command := 7, latch := img 2 1 2 1 0x100 } : State).command = .ok .pack ∧
    decode ({ askedBusy [.memr 0] with rstPin := [true], command := 0x80 } : State).command = .error .reservedBits := by decide

/-- The addresses at the ends of a DST region of two bytes, and of one that runs past the end of MEM: inside and outside. -/
theorem witness_RstAbandonsTheCommand_ends :
    decode ({ askedBusy [] with rstPin := [true], command := 7, latch := img 2 2 2 1 0x800 } : State).command = .ok .pack ∧
    (∀ a, a = 0x40 ∨ a = 0x41 → 0x40 ≤ a ∧ a < 0x40 + (img 2 2 2 1 0x800).dstLen.toNat ∧ a < idle.params.memBytes) ∧
    ¬ (0x40 ≤ 0x3F) ∧ ¬ (0x42 < 0x40 + (img 2 2 2 1 0x800).dstLen.toNat) ∧
    (4095 < 4095 + ({ img 2 2 2 1 0x800 with dstAddr := 4095 } : Args).dstLen.toNat ∧ 4095 < idle.params.memBytes) ∧
    (4096 < 4095 + ({ img 2 2 2 1 0x800 with dstAddr := 4095 } : Args).dstLen.toNat ∧ ¬ 4096 < idle.params.memBytes) := by
  refine ⟨by decide, ?_, by decide, by decide, by decide, by decide⟩
  rintro a (rfl | rfl) <;> decide

/-- Written cells in two memories, one of them at the end of MEM. -/
def filled : State := { askedBusy [.memw 5 1] with mem := [(0, 1), (4095, 2)], codeTable := [(4095, 3)], lineBuf := [(255, 4)] }

theorem witness_StepKeepsMemoriesCanonical : filled.RamsCanonical ∧ ∃ t, step filled = .next t :=
  ⟨⟨by decide, by decide, by decide⟩, _, rfl⟩

theorem witness_StepKeepsMemoriesInBounds : filled.RamsInBounds ∧ ∃ t, step filled = .next t :=
  ⟨⟨by decide, by decide, by decide⟩, _, rfl⟩

theorem witness_StepKeepsStatusInvariant : (askedBusy []).StatusOk ∧ ∃ t, step (askedBusy []) = .next t :=
  ⟨askedBusy_statusOk [], _, rfl⟩

theorem witness_CommandFrame : ∃ t, exec .crcInit (small (img 0 0 0 0 0) []) = .next t := ⟨_, rfl⟩

theorem witness_CommandsWriteOnlyDst : ∃ t, exec .pack (small (img 2 1 2 1 0x100) (bytes 0 [1, 1])) = .next t := ⟨_, rfl⟩

/-- A byte outside SRC and DST differs. -/
theorem witness_CommandsReadOnlyTheirRegions :
    (∀ a, (0 ≤ a ∧ a < 0 + 2) ∨ (64 ≤ a ∧ a < 64 + 1) → memRead (bytes 0 [1, 1, 9]) a = memRead (bytes 0 [1, 1, 8]) a) ∧
    (∃ t, exec .pack (small (img 2 1 2 1 0x100) (bytes 0 [1, 1, 8])) = .next t) ∧
    (∃ u, exec .pack ((small (img 2 1 2 1 0x100) (bytes 0 [1, 1, 8])).withMem (bytes 0 [1, 1, 9])) = .next u) := by
  refine ⟨fun a ha => ?_, ⟨_, rfl⟩, ⟨_, rfl⟩⟩
  have h2 : ¬ 2 = a := by omega
  simp [bytes, memRead, Ram.lookup, h2]

theorem witness_ErrorsAreTheCommandsOwn :
    ∃ t, exec (.filter 5) (small (img 0 0 0 0 0) []) = .next t ∧ (small (img 0 0 0 0 0) []).status.err = false ∧
      t.status.err = true := ⟨_, rfl, rfl, rfl⟩

/-- A legal FORMAT with its fields, and one for each condition of R266 that fails. -/
theorem witness_FormatAcceptedIffLegal :
    formatFor .expand (img 0 0 1 1 0x11002) = some ⟨.rgb, 16, true⟩ ∧ FormatLegal .expand (img 0 0 1 1 0x11002) ∧
    ¬ FormatLegal .pack (img 0 0 1 1 0x21002) ∧ ¬ FormatLegal .pack (img 0 0 1 1 0x1002) ∧
    ¬ FormatLegal .expand (img 0 0 1 1 0x402) ∧ ¬ FormatLegal .expand (img 0 0 1 1 0x10803) ∧
    ¬ FormatLegal .expand { img 0 0 1 1 0x803 with plteCount := 257 } := by
  unfold FormatLegal LegalPair
  refine ⟨?_, ?_, ?_, ?_, ?_, ?_, ?_⟩ <;> decide +kernel

/-- The first check that fails, for each kind of check and each command that has checks, each at its boundary. -/
theorem witness_StartChecksInOrder :
    (∃ r c q, startChecks idle.params { img 5 0 0 0 0 with srcAddr := 4092 } .crcUpdate = r ++ c :: q ∧
      (∀ k ∈ r, k.passes) ∧ ¬ c.passes ∧ c.code = 0x02 ∧ c.info = 0) ∧
    (∃ r c q, startChecks idle.params { img 5 1 0 0 0 with dstAddr := 4096 } .lzwDecode = r ++ c :: q ∧
      (∀ k ∈ r, k.passes) ∧ ¬ c.passes ∧ c.code = 0x02 ∧ c.info = 1) ∧
    (∃ r c q, startChecks idle.params (img 65 4 2 2 0x800) .unfilter = r ++ c :: q ∧
      (∀ k ∈ r, k.passes) ∧ ¬ c.passes ∧ c.code = 0x03 ∧ c.info = 0) ∧
    (∃ r c q, startChecks idle.params (img 5 4 2 2 0x800) .unfilter = r ++ c :: q ∧
      (∀ k ∈ r, k.passes) ∧ ¬ c.passes ∧ c.code = 0x05 ∧ c.info = 6) ∧
    (∃ r c q, startChecks idle.params (img 0 0 0 0 0) (.filter 5) = r ++ c :: q ∧
      (∀ k ∈ r, k.passes) ∧ ¬ c.passes ∧ c.code = 0x09 ∧ c.info = 5) ∧
    (∃ r c q, startChecks idle.params (img 4 5 2 2 0x800) (.filter 4) = r ++ c :: q ∧
      (∀ k ∈ r, k.passes) ∧ ¬ c.passes ∧ c.code = 0x06 ∧ c.info = 6) ∧
    (∃ r c q, startChecks idle.params (img 4 4 2 2 0x1000) .pack = r ++ c :: q ∧
      (∀ k ∈ r, k.passes) ∧ ¬ c.passes ∧ c.code = 0x04 ∧ c.info = 0x1000) ∧
    (∃ r c q, startChecks idle.params (img 257 257 257 1 0x800) .adam7Deinterlace = r ++ c :: q ∧
      (∀ k ∈ r, k.passes) ∧ ¬ c.passes ∧ c.code = 0x03 ∧ c.info = 0) ∧
    (∃ r c q, startChecks idle.params { img 263 257 257 1 0x800 with dstAddr := 0x200 } .adam7Deinterlace = r ++ c :: q ∧
      (∀ k ∈ r, k.passes) ∧ ¬ c.passes ∧ c.code = 0x0C ∧ c.info = 257) := by
  refine ⟨⟨[], _, _, rfl, ?_⟩, ⟨[_], _, _, rfl, ?_⟩, ⟨[_, _, _], _, _, rfl, ?_⟩, ⟨[_, _, _, _], _, _, rfl, ?_⟩,
    ⟨[], _, _, rfl, ?_⟩, ⟨[_, _, _, _, _, _], _, _, rfl, ?_⟩, ⟨[], _, _, rfl, ?_⟩, ⟨[_, _, _], _, _, rfl, ?_⟩,
    ⟨[_, _, _, _, _, _], _, _, rfl, ?_⟩⟩ <;>
  simp only [List.mem_cons, List.not_mem_nil, or_false, forall_eq_or_imp, forall_eq, false_imp_iff, implies_true,
    formatCheck, FormatLegal, LegalPair, InMem, Apart] <;> and_intros <;> decide +kernel

/-- SRC ends at the end of MEM, and one byte past it. -/
theorem witness_CrcUpdateFoldsSrc :
    InMem (small { img 4 0 0 0 0 with srcAddr := 4092 } []).params 4092 4 ∧
    ¬ InMem (small { img 5 0 0 0 0 with srcAddr := 4092 } []).params 4092 5 := by unfold InMem; decide

theorem witness_CrcUpdateMayBeSplit :
    4090 + 2 + 4 ≤ (small (img 0 0 0 0 0) []).params.memBytes ∧ 4090 + 2 < 2 ^ 32 ∧ 2 + 4 < 2 ^ 32 := by decide

/-- The stream `clear, 1, clear, 3, end` of three-bit codes. -/
def clearedStream : State := small (img 4 2 0 0 0) (bytes 0 [2, 2, 0b00001100, 0b01010111])

theorem witness_LzwDecodesClearedRoots :
    clearedStream.latch.fits clearedStream.params (2 + (clearedStream.readByte (0 + 1)).toNat) 2 ∧
    2 = (clearedStream.readByte 0).toNat ∧ (2 * 2 + 1) * (2 + 1) ≤ 8 * (clearedStream.readByte (0 + 1)).toNat ∧
    (∀ k, k < 2 → codeAt clearedStream.mem (0 + 2) (2 * k * (2 + 1)) (2 + 1) = 2 ^ 2) ∧
    (∀ k, k < 2 → codeAt clearedStream.mem (0 + 2) ((2 * k + 1) * (2 + 1)) (2 + 1) < 2 ^ 2) ∧
    codeAt clearedStream.mem (0 + 2) (2 * 2 * (2 + 1)) (2 + 1) = 2 ^ 2 + 1 := by
  unfold Args.fits InMem Apart; decide +kernel

/-- Streams in a block that runs LZW_DECODE, with `n` bytes of DST. -/
def stream (n : Nat) (l : List Nat) : State := small (img l.length n 0 0 0) (bytes 0 l)

/-- Each way to end, with the output that spec/95_test_vectors.md gives: V-LZW-2 (the code equal to the next one, and width growth),
V-LZW-3 (overrun), V-LZW-7 (an invalid code), V-LZW-10 (a missing byte), V-LZW-12 (two sub-blocks), and an exhausted stream. -/
theorem test_lzw_reference :
    (stream 4 [2, 2, 0x8C, 0x53, 0]).lzwResult = ([1, 1, 1, 1], .endCode) ∧
    (stream 3 [2, 2, 0x8C, 0x53, 0]).lzwResult = ([1, 1, 1], .overrun) ∧
    (stream 4 [2, 1, 0x3C, 0]).lzwResult = ([], .badCode 7 6) ∧
    ((stream 4 [2, 2, 0x8C]).lzwResult, (stream 4 [2, 2, 0x8C]).lzwData.2) = (([1], .exhausted), some 3) ∧
    (stream 4 [2, 1, 0x8C, 1, 0x53, 0]).lzwResult = ([1, 1, 1, 1], .endCode) ∧
    ((stream 4 [2, 0]).lzwResult, (stream 4 [2, 0]).lzwData.2) = (([], .exhausted), none) := by decide +kernel

/-- A stream that meets the conditions, with a minimum code size at each end of 2..8, and for the outcomes of R141: end code, overrun,
a refused minimum code size, an invalid code. -/
theorem witness_LzwOutcomes :
    clearedStream.latch.fits clearedStream.params 0 0 ∧ clearedStream.status.busy = true ∧ clearedStream.StatusOk ∧
    1 ≤ clearedStream.latch.srcLen.toNat ∧ 2 ≤ (clearedStream.readByte 0).toNat ∧ ((stream 0 [8]).readByte 0).toNat ≤ 8 ∧
    1 ≤ (stream 0 [8]).latch.srcLen.toNat ∧ (stream 0 [8]).latch.fits idle.params 0 0 ∧
    after .lzwDecode clearedStream 2 = some (0x22, 2, 0, [1, 3]) ∧
    after .lzwDecode (small (img 4 1 0 0 0) clearedStream.mem) 1 = some (0x0A, 1, 0, [1]) ∧
    after .lzwDecode (small (img 4 2 0 0 0) (bytes 0 [9])) 0 = some (0x706, 0, 9, []) ∧
    after .lzwDecode (small (img 4 4 0 0 0) (bytes 0 [2, 1, 0x3C, 0])) 0 = some (0x806, 0, 0x60007, []) := by
  refine ⟨?_, rfl, ?_, by decide, by decide, by decide, by decide, ?_, by decide +kernel, by decide +kernel, by decide +kernel,
    by decide +kernel⟩
  · unfold Args.fits InMem Apart; decide +kernel
  · exact ⟨fun _ => ⟨rfl, rfl, rfl, rfl, rfl, rfl⟩, fun _ => ⟨rfl, rfl⟩, by decide, by decide, by decide, by decide⟩
  · unfold Args.fits InMem Apart; decide +kernel

/-- Empty SRC; a minimum code size of 1 and of 9; 2 and 8 with an empty first sub-block. -/
theorem witness_LzwFirstBytes :
    (small (img 0 1 0 0 0) []).latch.fits idle.params 0 0 ∧ (small (img 0 1 0 0 0) []).latch.srcLen.toNat = 0 ∧
    (small (img 2 1 0 0 0) (bytes 0 [1, 0])).latch.fits idle.params 0 0 ∧
    ((small (img 2 1 0 0 0) (bytes 0 [1, 0])).readByte 0).toNat < 2 ∧
    8 < ((small (img 2 1 0 0 0) (bytes 0 [9, 0])).readByte 0).toNat ∧ 2 ≤ (img 2 1 0 0 0).srcLen.toNat ∧
    2 ≤ ((small (img 2 1 0 0 0) (bytes 0 [2, 0])).readByte 0).toNat ∧
    ((small (img 2 1 0 0 0) (bytes 0 [8, 0])).readByte 0).toNat ≤ 8 ∧
    (small (img 2 1 0 0 0) (bytes 0 [8, 0])).readByte (0 + 1) = 0 := by
  unfold Args.fits InMem Apart; decide +kernel

/-- A table with the one entry 6 (codes of minimum size 2), and 6 as the previous code. -/
theorem witness_LzwEntryExtendsThePreviousCode :
    ({ Lzw.init 2 with prevCode := some 6, nextCode := 7 } : Lzw).prevCode = some 6 ∧ (6 < 4 ∨ 5 < 6) ∧ 6 < 7 ∧ 7 < 4096 ∧ 4 ≤ 7 ∧
    (∀ c, c < 7 → 5 < c → (tableEntry [(6, 0x102)] c).toNat / 2 ^ 8 < c ∧
      ((tableEntry [(6, 0x102)] c).toNat / 2 ^ 8 < 4 ∨ 5 < (tableEntry [(6, 0x102)] c).toNat / 2 ^ 8)) ∧
    expandCode [(6, 0x102)] 4 2 6 = some [1, 2] := by decide +kernel

theorem witness_LzwRegistersFit : 2 ≤ 8 ∧ 8 ≤ 8 ∧ 1 ≤ (⟨0, 1⟩ : Region).len := by decide

/-- Ties go to a, then to b; c wins only when it is strictly nearest (R165's examples); the sum of Average may exceed 255; a left
neighbour at the edge of the image and one inside. -/
theorem witness_PaethPicksTheNearest :
    paethOf 5 5 5 = 5 ∧ paethOf 100 50 200 = 50 ∧ paethOf 10 20 15 = 15 ∧ FilterType.ofCode 3 = some .average ∧
    FilterType.ofCode 4 = some .paeth ∧ FilterType.average.pred ⟨255, 255, 0⟩ = 255 ∧
    (neighbours (fun _ _ => 9) 3 1 2).a = 0 ∧ (neighbours (fun _ _ => 9) 3 1 3).a = 9 := by decide

/-- Two rows of gray bytes, of types Sub and Paeth. -/
theorem witness_UnfilterReconstructs :
    formatFor .unfilter (img 6 4 2 2 0x800) = some ⟨.gray, 8, false⟩ ∧ (img 6 4 2 2 0x800).fits idle.params 6 4 ∧
    ((img 6 4 2 2 0x800).raster ⟨.gray, 8, false⟩).filteredLen = 6 ∧ ((img 6 4 2 2 0x800).raster ⟨.gray, 8, false⟩).rawLen = 4 ∧
    (∀ y, y < 2 → (small (img 6 4 2 2 0x800) (bytes 0 [1, 10, 5, 4, 1, 1])).rowType
      ((img 6 4 2 2 0x800).raster ⟨.gray, 8, false⟩) y ≤ 4) := by
  unfold Args.fits InMem Apart; decide +kernel

/-- The type byte of the last row is 5. -/
theorem witness_UnfilterStopsAtBadType :
    formatFor .unfilter (img 6 4 2 2 0x800) = some ⟨.gray, 8, false⟩ ∧ (img 6 4 2 2 0x800).fits idle.params 6 4 ∧
    1 < ((img 6 4 2 2 0x800).raster ⟨.gray, 8, false⟩).h ∧
    (∀ y, y < 1 → (small (img 6 4 2 2 0x800) (bytes 0 [4, 10, 5, 5, 1, 1])).rowType
      ((img 6 4 2 2 0x800).raster ⟨.gray, 8, false⟩) y ≤ 4) ∧
    4 < (small (img 6 4 2 2 0x800) (bytes 0 [4, 10, 5, 5, 1, 1])).rowType
      ((img 6 4 2 2 0x800).raster ⟨.gray, 8, false⟩) 1 := by
  unfold Args.fits InMem Apart; decide +kernel

theorem witness_FilterEmitsFilteredRows :
    FilterType.ofCode 4 = some .paeth ∧ formatFor .filter (img 12 14 2 2 0x802) = some ⟨.rgb, 8, false⟩ ∧
    (img 12 14 2 2 0x802).fits idle.params 12 14 ∧ ((img 12 14 2 2 0x802).raster ⟨.rgb, 8, false⟩).rawLen = 12 ∧
    ((img 12 14 2 2 0x802).raster ⟨.rgb, 8, false⟩).filteredLen = 14 := by
  unfold Args.fits InMem Apart; decide +kernel

theorem witness_FilterRefusesTypesAboveFour : 4 < 5 ∧ (Instr.filter 5).wf = true := by decide

/-- FILTER from 0 to 0x40, UNFILTER from there to 0x80. -/
theorem witness_UnfilterInvertsFilter :
    4 ≤ 4 ∧ formatFor .filter (img 12 14 2 2 0x802) = some ⟨.rgb, 8, false⟩ ∧ (img 12 14 2 2 0x802).fits idle.params 12 14 ∧
    (((img 12 14 2 2 0x802).withSrc 0x40 14).withDst 0x80 12).fits idle.params 14 12 := by
  unfold Args.fits InMem Apart; decide +kernel

/-- RGBA of depth 16, and RGB of depths 8 and 16 with a key. -/
theorem witness_ExpandTrueColour :
    formatFor .expand (img 8 4 1 1 0x1006) = some ⟨.rgba, 16, false⟩ ∧ (img 8 4 1 1 0x1006).fits idle.params 8 4 ∧
    formatFor .expand (img 3 4 1 1 0x10802) = some ⟨.rgb, 8, true⟩ ∧ (img 3 4 1 1 0x10802).fits idle.params 3 4 ∧
    formatFor .expand (img 6 4 1 1 0x11002) = some ⟨.rgb, 16, true⟩ ∧ (img 6 4 1 1 0x11002).fits idle.params 6 4 := by
  unfold Args.fits InMem Apart; decide +kernel

/-- Gray of depth 1 and 16, gray and alpha of depth 8 and 16. -/
theorem witness_ExpandGray :
    formatFor .expand (img 1 32 8 1 0x100) = some ⟨.gray, 1, false⟩ ∧ (img 1 32 8 1 0x100).fits idle.params 1 32 ∧
    formatFor .expand (img 2 4 1 1 0x11000) = some ⟨.gray, 16, true⟩ ∧ (img 2 4 1 1 0x11000).fits idle.params 2 4 ∧
    formatFor .expand (img 2 4 1 1 0x804) = some ⟨.grayAlpha, 8, false⟩ ∧ (img 2 4 1 1 0x804).fits idle.params 2 4 ∧
    formatFor .expand (img 4 4 1 1 0x1004) = some ⟨.grayAlpha, 16, false⟩ ∧ (img 4 4 1 1 0x1004).fits idle.params 4 4 := by
  unfold Args.fits InMem Apart; decide +kernel

/-- Two pixels of a two-bit palette image, three palette entries at 0x80, one alpha value at 0x90. -/
def palImg : Args :=
  { img 1 8 2 1 0x203 with plteAddr := 0x80, plteCount := 3, trnsAddr := 0x90, trnsLen := 1 }

/-- TRNS one byte past the end of MEM, and PLTE over DST. -/
theorem witness_StartChecksInOrder_palette :
    (∃ r c q, startChecks idle.params { palImg with trnsAddr := 4096 } .expand = r ++ c :: q ∧
      (∀ k ∈ r, k.passes) ∧ ¬ c.passes ∧ c.code = 0x02 ∧ c.info = 3) ∧
    (∃ r c q, startChecks idle.params { palImg with plteAddr := 0x47 } .expand = r ++ c :: q ∧
      (∀ k ∈ r, k.passes) ∧ ¬ c.passes ∧ c.code = 0x03 ∧ c.info = 2) := by
  refine ⟨⟨[_, _, _, _], _, _, rfl, ?_⟩, ⟨[_, _, _, _, _, _], _, _, rfl, ?_⟩⟩ <;>
  simp only [List.mem_cons, List.not_mem_nil, or_false, forall_eq_or_imp, forall_eq, formatCheck, FormatLegal, LegalPair, InMem,
    Apart] <;> and_intros <;> decide +kernel

/-- Indices 2 (the last entry) and 0. -/
theorem witness_ExpandPalette :
    formatFor .expand palImg = some ⟨.palette, 2, false⟩ ∧ palImg.fits idle.params 1 8 ∧ palImg.tablesFit idle.params ∧
    (∀ y, y < 1 → ∀ x, x < 2 → (small palImg (bytes 0 [0b10000000])).sampleAt 0 (palImg.raster ⟨.palette, 2, false⟩) y x 0 <
      palImg.plteCount.toNat) := by
  unfold Args.fits Args.tablesFit InMem Apart; decide +kernel

/-- Indices 2 and 3: the second has no entry. -/
theorem witness_ExpandStopsAtBadIndex :
    formatFor .expand palImg = some ⟨.palette, 2, false⟩ ∧ palImg.fits idle.params 1 8 ∧ palImg.tablesFit idle.params ∧
    (small palImg (bytes 0 [0b10110000])).sampleAt 0 (palImg.raster ⟨.palette, 2, false⟩) 0 0 0 < palImg.plteCount.toNat ∧
    palImg.plteCount.toNat ≤ (small palImg (bytes 0 [0b10110000])).sampleAt 0 (palImg.raster ⟨.palette, 2, false⟩) 0 1 0 := by
  unfold Args.fits Args.tablesFit InMem Apart; decide +kernel

/-- Nine one-bit samples: two bytes a row, seven padding bits. -/
theorem witness_PackWritesSamples :
    formatFor .pack (img 9 2 9 1 0x100) = some ⟨.gray, 1, false⟩ ∧ (img 9 2 9 1 0x100).fits idle.params 9 2 ∧
    ((img 9 2 9 1 0x100).raster ⟨.gray, 1, false⟩).sampleBytes = 9 ∧ ((img 9 2 9 1 0x100).raster ⟨.gray, 1, false⟩).rawLen = 2 ∧
    (∀ k, k < 9 → ((small (img 9 2 9 1 0x100) (bytes 0 [1, 0, 1, 0, 1, 0, 1, 0, 1])).readByte (0 + k)).toNat < 2 ^ 1) ∧
    9 * 1 % 8 ≠ 0 := by
  unfold Args.fits InMem Apart; decide +kernel

/-- Two rows of two one-bit samples; the last sample is 2. -/
theorem witness_PackStopsAtBadSample :
    formatFor .pack (img 4 2 2 2 0x100) = some ⟨.gray, 1, false⟩ ∧ 1 < 8 ∧ (img 4 2 2 2 0x100).fits idle.params 4 2 ∧
    ((img 4 2 2 2 0x100).raster ⟨.gray, 1, false⟩).sampleBytes = 4 ∧ ((img 4 2 2 2 0x100).raster ⟨.gray, 1, false⟩).rawLen = 2 ∧
    (∀ k, k < 1 * 2 + 1 → ((small (img 4 2 2 2 0x100) (bytes 0 [1, 1, 0, 2])).readByte (0 + k)).toNat < 2 ^ 1) ∧
    2 ^ 1 ≤ ((small (img 4 2 2 2 0x100) (bytes 0 [1, 1, 0, 2])).readByte (0 + (1 * 2 + 1))).toNat ∧ 2 * 1 % 8 ≠ 0 := by
  unfold Args.fits InMem Apart; decide +kernel

theorem witness_ExpandInvertsPackOfRgba :
    formatFor .pack (img 8 8 1 2 0x806) = some ⟨.rgba, 8, false⟩ ∧ (img 8 8 1 2 0x806).fits idle.params 8 8 ∧
    (((img 8 8 1 2 0x806).withSrc 0x40 8).withDst 0x80 8).fits idle.params 8 8 := by
  unfold Args.fits InMem Apart; decide +kernel

theorem witness_Adam7CoversEachPixelOnce : 6 < 7 ∧ 1 < 2 := by decide

/-- A 2 by 2 gray image; and one of two one-bit pixels, whose row has six padding bits. -/
theorem witness_Adam7Deinterlaces :
    formatFor .adam7 (img 7 4 2 2 0x800) = some ⟨.gray, 8, false⟩ ∧ (img 7 4 2 2 0x800).fits idle.params 7 4 ∧
    ((img 7 4 2 2 0x800).raster ⟨.gray, 8, false⟩).bpl ≤ idle.params.lineBufBytes ∧
    adam7Len ((img 7 4 2 2 0x800).raster ⟨.gray, 8, false⟩) = 7 ∧
    (∀ p, p < 7 → ∀ row, row < passRows 2 2 p → (small (img 7 4 2 2 0x800) (bytes 0 [0, 1, 4, 2, 3, 3, 4])).passType
      ((img 7 4 2 2 0x800).raster ⟨.gray, 8, false⟩) p row ≤ 4) ∧
    formatFor .adam7 (img 4 1 2 1 0x100) = some ⟨.gray, 1, false⟩ ∧ 2 * (⟨.gray, 1, false⟩ : PixFmt).bitsPP % 8 ≠ 0 := by
  unfold Args.fits InMem Apart; decide +kernel

/-- The type byte of the last pass row is 5. -/
theorem witness_Adam7StopsAtBadType :
    formatFor .adam7 (img 7 4 2 2 0x800) = some ⟨.gray, 8, false⟩ ∧ (img 7 4 2 2 0x800).fits idle.params 7 4 ∧
    ((img 7 4 2 2 0x800).raster ⟨.gray, 8, false⟩).bpl ≤ idle.params.lineBufBytes ∧ 0 < passRows 2 2 6 ∧
    (∀ p, p < 7 → ∀ row, row < passRows 2 2 p → p < 6 ∨ (p = 6 ∧ row < 0) →
      (small (img 7 4 2 2 0x800) (bytes 0 [0, 1, 0, 2, 5, 3, 4])).passType
        ((img 7 4 2 2 0x800).raster ⟨.gray, 8, false⟩) p row ≤ 4) ∧
    4 < (small (img 7 4 2 2 0x800) (bytes 0 [0, 1, 0, 2, 5, 3, 4])).passType
      ((img 7 4 2 2 0x800).raster ⟨.gray, 8, false⟩) 6 0 := by
  unfold Args.fits InMem Apart; decide +kernel

/-- Three bytes a pixel, and one bit a pixel with padding bits that are not 0. -/
theorem witness_Adam7OfOnePixelIsUnfilter :
    formatFor .adam7 (img 4 3 1 1 0x802) = some ⟨.rgb, 8, false⟩ ∧ 8 ≤ (⟨.rgb, 8, false⟩ : PixFmt).bitsPP ∧
    (img 4 3 1 1 0x802).fits idle.params 4 3 ∧ ((img 4 3 1 1 0x802).raster ⟨.rgb, 8, false⟩).filteredLen = 4 ∧
    ((img 4 3 1 1 0x802).raster ⟨.rgb, 8, false⟩).bpl ≤ idle.params.lineBufBytes ∧
    (small (img 4 3 1 1 0x802) (bytes 0 [4, 1, 2, 3])).rowType ((img 4 3 1 1 0x802).raster ⟨.rgb, 8, false⟩) 0 ≤ 4 ∧
    formatFor .adam7 (img 2 1 1 1 0x100) = some ⟨.gray, 1, false⟩ ∧ (⟨.gray, 1, false⟩ : PixFmt).bitsPP < 8 ∧
    (img 2 1 1 1 0x100).fits idle.params 2 1 ∧ ((img 2 1 1 1 0x100).raster ⟨.gray, 1, false⟩).filteredLen = 2 ∧
    (small (img 2 1 1 1 0x100) (bytes 0 [4, 0xC1])).rowType ((img 2 1 1 1 0x100).raster ⟨.gray, 1, false⟩) 0 ≤ 4 := by
  unfold Args.fits InMem Apart; decide +kernel

end Sys2Proof.Tests
end

section
/-! SUPPORT. FORMAT: its fields as numbers, the colour types and their codes, and when a command accepts it (R33, R191, R266). -/

namespace Sys2Proof.Machine

/-! ### Colour types and their codes -/

/-- The code of a colour type in CTYPE (R33): the inverse of `Ctype.ofCode`. -/
def Ctype.code : Ctype → Nat
  | .gray => 0
  | .rgb => 2
  | .palette => 3
  | .grayAlpha => 4
  | .rgba => 6

@[simp] theorem Ctype.ofCode_code (ct : Ctype) : Ctype.ofCode ct.code = some ct := by cases ct <;> rfl

theorem Ctype.ofCode_eq_some_iff (n : Nat) (ct : Ctype) : Ctype.ofCode n = some ct ↔ ct.code = n := by
  constructor
  · intro h
    unfold Ctype.ofCode at h
    split at h <;> cases h <;> rfl
  · rintro rfl
    exact Ctype.ofCode_code ct

/-- The names of R191, as the claim lists them. -/
theorem Ctype.code_eq_iff (ct : Ctype) (n : Nat) :
    ct.code = n ↔ (ct = .gray ∧ n = 0) ∨ (ct = .rgb ∧ n = 2) ∨ (ct = .palette ∧ n = 3) ∨
      (ct = .grayAlpha ∧ n = 4) ∨ (ct = .rgba ∧ n = 6) := by
  cases ct <;> simp [Ctype.code, eq_comm]

theorem Ctype.mem_depths_iff (ct : Ctype) (d : Nat) : d ∈ ct.depths ↔ LegalPair ct.code d := by
  cases ct <;> simp [Ctype.depths, Ctype.code, LegalPair]

theorem Ctype.keyed_iff (ct : Ctype) : ct.keyed = true ↔ ct.code = 0 ∨ ct.code = 2 := by
  cases ct <;> decide

theorem Ctype.eq_palette_iff (ct : Ctype) : ct = .palette ↔ ct.code = 3 := by
  cases ct <;> decide

theorem Ctype.channels_eq_samplesOf (ct : Ctype) : ct.channels = samplesOf ct.code := by
  cases ct <;> rfl

/-! ### The fields of FORMAT -/

theorem format_reserved_toNat (v : Word) : (v.extractLsb' 17 15).toNat = v.toNat / 2 ^ 17 := by
  rw [BitVec.extractLsb'_toNat, Nat.shiftRight_eq_div_pow]
  have := v.isLt
  omega

theorem format_ctype_toNat (v : Word) : (v.extractLsb' 0 8).toNat = v.toNat % 256 := by
  rw [BitVec.extractLsb'_toNat, Nat.shiftRight_zero]

theorem format_depth_toNat (v : Word) : (v.extractLsb' 8 8).toNat = v.toNat / 256 % 256 := by
  rw [BitVec.extractLsb'_toNat, Nat.shiftRight_eq_div_pow]

theorem format_trnsEn_iff (v : Word) : v.getLsbD 16 = true ↔ v.toNat / 2 ^ 16 % 2 = 1 := by
  rw [BitVec.getLsbD, Nat.testBit_eq_decide_div_mod_eq, decide_eq_true_eq]

/-! ### Acceptance -/

/-- A format is read from FORMAT exactly when it has its fields, the reserved bits are 0, the pair is legal, and a key is for
gray and RGB only (R266). -/
theorem pixFmt_eq_some_iff (v : Word) (f : PixFmt) :
    pixFmt v = some f ↔
      (f.ct.code = v.toNat % 256 ∧ f.depth = v.toNat / 256 % 256 ∧ (f.trnsEn = true ↔ v.toNat / 2 ^ 16 % 2 = 1)) ∧
      v.toNat / 2 ^ 17 = 0 ∧ f.depth ∈ f.ct.depths ∧ (f.trnsEn = true → f.ct.keyed = true) := by
  obtain ⟨ct, depth, trnsEn⟩ := f
  simp only [pixFmt, format_reserved_toNat, format_ctype_toNat, format_depth_toNat, ← format_trnsEn_iff,
    ← Bool.eq_iff_iff, ← Ctype.ofCode_eq_some_iff]
  cases hc : Ctype.ofCode (v.toNat % 256) with
  | none => simp
  | some ct' =>
    simp only [ite_not, Option.ite_none_right_eq_some, Option.some.injEq, PixFmt.mk.injEq]
    constructor
    · rintro ⟨hr, ⟨hd, hk⟩, rfl, rfl, rfl⟩
      exact ⟨⟨rfl, rfl, rfl⟩, hr, hd, hk⟩
    · rintro ⟨⟨rfl, rfl, rfl⟩, hr, hd, hk⟩
      exact ⟨hr, ⟨hd, hk⟩, rfl, rfl, rfl⟩

theorem formatFor_eq_some_iff (c : FormatUser) (L : Args) (f : PixFmt) :
    formatFor c L = some f ↔ pixFmt L.format = some f ∧ formatFits c L f = true := by
  unfold formatFor
  split
  · next h => simp [h]
  · next g h =>
    simp only [h, Option.ite_none_right_eq_some, Option.some.injEq]
    exact ⟨fun ⟨hg, e⟩ => ⟨e, e ▸ hg⟩, fun ⟨e, hf⟩ => ⟨e ▸ hf, e⟩⟩

/-- The conditions of one command each (R266). -/
theorem formatFits_iff (c : FormatUser) (L : Args) (f : PixFmt) :
    formatFits c L f = true ↔
      (c = .expand → f.ct.code = 3 → L.plteCount.toNat ≤ 256 ∧ L.trnsLen.toNat ≤ 256) ∧ (c = .pack → f.depth ≠ 16) := by
  cases c <;> simp [formatFits, Ctype.eq_palette_iff, imp_iff_not_or]

/-- What is accepted has the fields of FORMAT, under the conditions of R266. -/
theorem formatFor_eq_some_iff_legal (c : FormatUser) (L : Args) (f : PixFmt) :
    formatFor c L = some f ↔
      FormatLegal c L ∧ f.ct.code = L.ctypeBits ∧ f.depth = L.depthBits ∧
      (f.trnsEn = true ↔ L.format.toNat / 2 ^ 16 % 2 = 1) := by
  rw [formatFor_eq_some_iff, pixFmt_eq_some_iff, formatFits_iff, Ctype.mem_depths_iff, Ctype.keyed_iff]
  rw [show L.format.toNat % 256 = L.ctypeBits from rfl, show L.format.toNat / 256 % 256 = L.depthBits from rfl, FormatLegal]
  constructor
  · rintro ⟨⟨⟨hc, hd, ht⟩, hr, hp, hk⟩, he, hpk⟩
    rw [hc] at hp hk he
    rw [hd] at hp hpk
    exact ⟨⟨hr, hp, fun h => hk (ht.2 h), he, hpk⟩, hc, hd, ht⟩
  · rintro ⟨⟨hr, hp, hk, he, hpk⟩, hc, hd, ht⟩
    rw [hc, hd]
    exact ⟨⟨⟨rfl, rfl, ht⟩, hr, hp, fun h => hk (ht.1 h)⟩, he, hpk⟩

/-! ### Quantities of R11 -/

theorem formatFor_depth_mem {c : FormatUser} {L : Args} {f : PixFmt} (h : formatFor c L = some f) : f.depth ∈ f.ct.depths := by
  obtain ⟨hf, -⟩ := (formatFor_eq_some_iff c L f).1 h
  obtain ⟨-, -, hd, -⟩ := (pixFmt_eq_some_iff _ f).1 hf
  exact hd

theorem formatFor_channels {c : FormatUser} {L : Args} {f : PixFmt} (h : formatFor c L = some f) :
    f.ct.channels = samplesOf L.ctypeBits := by
  obtain ⟨-, hc, -⟩ := (formatFor_eq_some_iff_legal c L f).1 h
  rw [Ctype.channels_eq_samplesOf, hc]

theorem formatFor_bitsPP {c : FormatUser} {L : Args} {f : PixFmt} (h : formatFor c L = some f) : f.bitsPP = L.pixelBits := by
  obtain ⟨-, -, hd, -⟩ := (formatFor_eq_some_iff_legal c L f).1 h
  rw [PixFmt.bitsPP, Args.pixelBits, formatFor_channels h, hd]

/-- Settles O30: the acceptance condition field by field, and R11's quantities from the two fields they are computed from. -/
theorem formatAcceptedIffLegal : Obligations.FormatAcceptedIffLegal := by
  unfold Obligations.FormatAcceptedIffLegal
  refine ⟨fun c L f => ?_, fun c L f h => ⟨formatFor_channels h, ?_, fun w => ?_⟩⟩
  · rw [formatFor_eq_some_iff_legal, Ctype.code_eq_iff]
    rfl
  · rw [PixFmt.bytesPP, ceilDiv_eight, formatFor_bitsPP h]
  · rw [PixFmt.bpl, ceilDiv_eight, formatFor_bitsPP h, Args.bytesFor]

end Sys2Proof.Machine
end

section
/-! SUPPORT. Every memory stays within its size (R60): which offsets the loops of the commands write, and the step lemma. -/

namespace Sys2Proof.Machine

/-! ### Memories below a bound -/

/-- Every listed index is below a bound: the three clauses of `State.RamsInBounds`. -/
abbrev Ram.Below {w : Nat} (m : Ram w) (bound : Nat) : Prop := ∀ c ∈ m, c.1 < bound

/-- Offset `y * n + x` of an image with `h` rows of `n` bytes. -/
theorem row_offset_lt {y h x n : Nat} (hy : y < h) (hx : x < n) : y * n + x < h * n :=
  calc y * n + x < (y + 1) * n := by rw [Nat.succ_mul]; omega
    _ ≤ h * n := Nat.mul_le_mul_right n hy

/-- A block write whose addresses are all below the bound; it may be empty at any base. -/
theorem memFill_below_of_lt {m : Memory} {bound : Nat} (base n : Nat) (f : Nat → Byte) (hm : Ram.Below m bound)
    (hb : ∀ j, j < n → base + j < bound) : Ram.Below (memFill m base n f) bound :=
  loop_keeps _ (Ram.Below · bound) n m hm fun j x hj hx => memWrite_below x _ _ bound (hb j hj) hx

/-! ### Bytes per pixel and per row (R11) -/

/-- A pixel of a legal pair has bits, less than a byte or whole bytes. -/
theorem PixFmt.bitsPP_pos_and_packed_or_whole (f : PixFmt) (h : f.depth ∈ f.ct.depths) :
    0 < f.bitsPP ∧ (f.bitsPP < 8 ∨ f.bitsPP = 8 * f.bytesPP) := by
  obtain ⟨ct, d, e⟩ := f
  rw [PixFmt.bytesPP, ceilDiv_eight, PixFmt.bitsPP]
  cases ct <;> simp only [Ctype.depths, List.mem_cons, List.not_mem_nil, or_false] at h <;>
    simp only [Ctype.channels] <;> omega

theorem PixFmt.bpl_eq (f : PixFmt) (w : Nat) : f.bpl w = (w * f.bitsPP + 7) / 8 := rfl

theorem PixFmt.bpl_mono (f : PixFmt) {v w : Nat} (h : v ≤ w) : f.bpl v ≤ f.bpl w := by
  have := Nat.mul_le_mul_right f.bitsPP h
  rw [PixFmt.bpl_eq, PixFmt.bpl_eq]
  omega

/-- Below 8 bits a pixel, pixel `x` lies in a byte of its row. -/
theorem PixFmt.packed_offset_lt (f : PixFmt) {x w : Nat} (hb : 0 < f.bitsPP) (hx : x < w) : x * f.bitsPP / 8 < f.bpl w := by
  have := Nat.mul_lt_mul_of_pos_right hx hb
  rw [PixFmt.bpl_eq]
  omega

/-- With whole bytes a pixel, the bytes of pixel `x` lie in its row. -/
theorem PixFmt.whole_offset_lt (f : PixFmt) {x w j : Nat} (hb : f.bitsPP = 8 * f.bytesPP) (hx : x < w) (hj : j < f.bytesPP) :
    x * f.bytesPP + j < f.bpl w := by
  have hoff : x * f.bytesPP + j < w * f.bytesPP := row_offset_lt hx hj
  rw [PixFmt.bpl_eq, hb, Nat.mul_left_comm]
  omega

/-! ### The loops of the commands write below the bound

In each lemma `hd` says that the DST bytes the command needs are below `bound`. -/

section
variable {bound : Nat}

theorem unfilterRows_below (r : Raster) (m : Memory) (hd : ∀ j, j < r.rawLen → r.dst + j < bound) (hm : Ram.Below m bound) :
    Ram.Below (unfilterRows r m).1.mem bound := by
  refine sweep_keeps _ (fun k : RowWork => Ram.Below k.mem bound) _ _ hm fun y k hy hk => ?_
  simp only [unfilterRow]
  split
  · exact hk
  · refine loop_keeps _ (Ram.Below · bound) _ _ hk fun x m' hx hm' => memWrite_below m' _ _ bound ?_ hm'
    rw [Nat.add_assoc]
    exact hd _ (row_offset_lt hy hx)

theorem filterRows_below (r : Raster) (code : Nat) (t : FilterType) (m : Memory)
    (hd : ∀ j, j < r.filteredLen → r.dst + j < bound) (hm : Ram.Below m bound) :
    Ram.Below (loop (filterRow r code t) r.h m) bound := by
  refine loop_keeps _ (Ram.Below · bound) _ _ hm fun y m' hy hm' => ?_
  have htype : r.dst + y * (1 + r.bpl) < bound := hd _ (row_offset_lt (x := 0) hy (by omega))
  refine loop_keeps _ (Ram.Below · bound) _ _ (memWrite_below m' _ _ bound htype hm') fun x m'' hx hm'' =>
    memWrite_below m'' _ _ bound ?_ hm''
  have := hd _ (row_offset_lt hy (show 1 + x < 1 + r.bpl by omega))
  omega

theorem writePixel_below {m : Memory} {o : Nat} (p : Rgba) (ho : ∀ j, j < 4 → o + j < bound) (hm : Ram.Below m bound) :
    Ram.Below (writePixel m o p) bound := by
  have h0 := memWrite_below m o p.red bound (ho 0 (by omega)) hm
  have h1 := memWrite_below _ (o + 1) p.green bound (ho 1 (by omega)) h0
  have h2 := memWrite_below _ (o + 2) p.blue bound (ho 2 (by omega)) h1
  exact memWrite_below _ (o + 3) p.alpha bound (ho 3 (by omega)) h2

theorem expandPixels_below (L : Args) (r : Raster) (m : Memory) (hd : ∀ j, j < 4 * r.w * r.h → r.dst + j < bound)
    (hm : Ram.Below m bound) : Ram.Below (expandPixels L r m).1.mem bound := by
  refine sweep_keeps _ (fun k : PixelWork => Ram.Below k.mem bound) _ _ hm fun y k hy hk => ?_
  refine sweep_keeps _ (fun k : PixelWork => Ram.Below k.mem bound) _ _ hk fun x k' hx hk' => ?_
  unfold expandPixel
  split
  · exact hk'
  · refine writePixel_below _ (fun j hj => ?_) hk'
    have hpix : y * r.w + x < r.h * r.w := row_offset_lt hy hx
    rw [Nat.add_assoc]
    exact hd _ (by rw [Nat.mul_assoc, Nat.mul_comm r.w]; omega)

theorem packRows_below (r : Raster) (m : Memory) (hd : ∀ j, j < r.rawLen → r.dst + j < bound) (hm : Ram.Below m bound) :
    Ram.Below (packRows r m).1.mem bound := by
  refine sweep_keeps _ (fun k : PackWork => Ram.Below k.mem bound) _ _ hm fun y k hy hk => ?_
  unfold packOneRow
  split
  · exact hk
  · refine memFill_below_of_lt _ _ _ hk fun j hj => ?_
    rw [Nat.add_assoc]
    exact hd _ (row_offset_lt hy hj)

/-! ### ADAM7_DEINTERLACE -/

theorem adam7Pass_increments_pos (p : Nat) : 0 < (adam7Pass p).ri ∧ 0 < (adam7Pass p).ci := by
  unfold adam7Pass
  split <;> decide

/-- Pixel `i` of a pass row is a pixel of its image row (R230, R231). -/
theorem pass_column_lt {w p i : Nat} (hi : i < passWidth w p) : (adam7Pass p).sc + i * (adam7Pass p).ci < w := by
  unfold passWidth ceilDiv at hi
  split at hi
  · obtain ⟨-, hci⟩ := adam7Pass_increments_pos p
    have := (Nat.le_div_iff_mul_le hci).1 hi
    rw [Nat.succ_mul] at this
    omega
  · omega

/-- Row `row` of a pass is a row of the image (R230, R231). -/
theorem pass_row_lt {w h p row : Nat} (hr : row < passRows w h p) : (adam7Pass p).sr + row * (adam7Pass p).ri < h := by
  unfold passRows passHeight ceilDiv at hr
  split at hr
  · omega
  · split at hr
    · obtain ⟨hri, -⟩ := adam7Pass_increments_pos p
      have := (Nat.le_div_iff_mul_le hri).1 hr
      rw [Nat.succ_mul] at this
      omega
    · omega

/-- A pass row is no longer than an image row. -/
theorem passWidth_le (w p : Nat) : passWidth w p ≤ w := by
  by_contra h
  have hlt := pass_column_lt (i := w) (w := w) (p := p) (by omega)
  obtain ⟨-, hci⟩ := adam7Pass_increments_pos p
  have := Nat.le_mul_of_pos_right w hci
  omega

theorem scatterBits_below (r : Raster) (cur : List Byte) {y x : Nat} (i : Nat) {m : Memory} (hb : 0 < r.fmt.bitsPP)
    (hy : y < r.h) (hx : x < r.w) (hd : ∀ j, j < r.rawLen → r.dst + j < bound) (hm : Ram.Below m bound) :
    Ram.Below (scatterBits r cur y x i m) bound := by
  refine memWrite_below m _ _ bound ?_ hm
  rw [Nat.add_assoc]
  exact hd _ (row_offset_lt hy (r.fmt.packed_offset_lt hb hx))

theorem scatterBytes_below (r : Raster) (cur : List Byte) {y x : Nat} (i : Nat) {m : Memory}
    (hb : r.fmt.bitsPP = 8 * r.fmt.bytesPP) (hy : y < r.h) (hx : x < r.w) (hd : ∀ j, j < r.rawLen → r.dst + j < bound)
    (hm : Ram.Below m bound) : Ram.Below (scatterBytes r cur y x i m) bound := by
  refine memFill_below_of_lt _ _ _ hm fun j hj => ?_
  rw [Nat.add_assoc, Nat.add_assoc]
  exact hd _ (row_offset_lt hy (r.fmt.whole_offset_lt hb hx hj))

theorem scatterPixel_below (r : Raster) (cur : List Byte) {p row i : Nat} {m : Memory} (hf : r.fmt.depth ∈ r.fmt.ct.depths)
    (hrow : row < passRows r.w r.h p) (hi : i < passWidth r.w p) (hd : ∀ j, j < r.rawLen → r.dst + j < bound)
    (hm : Ram.Below m bound) : Ram.Below (scatterPixel r cur p row i m) bound := by
  have hy := pass_row_lt hrow
  have hx := pass_column_lt hi
  obtain ⟨hpos, hwhole⟩ := r.fmt.bitsPP_pos_and_packed_or_whole hf
  unfold scatterPixel
  split
  · exact scatterBits_below r cur i hpos hy hx hd hm
  · next hge => exact scatterBytes_below r cur i (hwhole.resolve_left hge) hy hx hd hm

theorem storeLine_below {lb : Ram 8} (cur : List Byte) (n : Nat) (hn : n ≤ bound) (hlb : Ram.Below lb bound) :
    Ram.Below (storeLine lb cur n) bound :=
  loop_keeps _ (Ram.Below · bound) n lb hlb fun _ x hk hx => Ram.put_below x _ _ bound (by omega) hx

/-- MEM and the line buffer of a run of ADAM7_DEINTERLACE are within their sizes (R45, R60). -/
def Adam7Work.InBounds (k : Adam7Work) (bound lineBound : Nat) : Prop := Ram.Below k.mem bound ∧ Ram.Below k.lb lineBound

theorem adam7Row_inBounds (r : Raster) {p row lineBound : Nat} {k : Adam7Work} (hf : r.fmt.depth ∈ r.fmt.ct.depths)
    (hrow : row < passRows r.w r.h p) (hd : ∀ j, j < r.rawLen → r.dst + j < bound) (hl : r.bpl ≤ lineBound)
    (hk : k.InBounds bound lineBound) : (adam7Row r p row k).1.InBounds bound lineBound := by
  obtain ⟨hm, hlb⟩ := hk
  simp only [adam7Row]
  split
  · exact ⟨hm, hlb⟩
  · have hline : passBpl r.fmt r.w p ≤ lineBound := (r.fmt.bpl_mono (passWidth_le r.w p)).trans hl
    exact ⟨loop_keeps _ (Ram.Below · bound) _ _ hm fun i m hi hm => scatterPixel_below r _ hf hrow hi hd hm,
      storeLine_below _ _ hline hlb⟩

theorem adam7Passes_inBounds (r : Raster) (m : Memory) (lb : Ram 8) {lineBound : Nat} (hf : r.fmt.depth ∈ r.fmt.ct.depths)
    (hd : ∀ j, j < r.rawLen → r.dst + j < bound) (hl : r.bpl ≤ lineBound) (hm : Ram.Below m bound)
    (hlb : Ram.Below lb lineBound) :
    (adam7Passes r m lb).1.InBounds bound lineBound := by
  have hclear : Ram.Below (adam7Clear r m) bound := memFill_below_of_lt _ _ _ hm hd
  refine sweep_keeps _ (Adam7Work.InBounds · bound lineBound) _ _ ⟨hclear, hlb⟩ fun p k _ hk => ?_
  exact sweep_keeps _ (Adam7Work.InBounds · bound lineBound) _ _ hk fun row k' hrow hk' =>
    adam7Row_inBounds r hf hrow hd hl hk'

/-! ### LZW_DECODE -/

/-- MEM and the code table of a run of LZW_DECODE are within their sizes (R43, R60). -/
def LzwRun.InBounds (k : LzwRun) (bound : Nat) : Prop := Ram.Below k.mem bound ∧ Ram.Below k.table 4096

/-- An entry is added at `next_code` below 4096 only (R133). -/
theorem addEntry_below {table : Ram 20} (z : Lzw) (b : Byte) (h : Ram.Below table 4096) :
    Ram.Below (addEntry table z b).1 4096 := by
  unfold addEntry
  split
  · exact h
  · split
    · next hlt => exact Ram.put_below table _ _ 4096 hlt h
    · exact h

theorem lzwOrdinary_inBounds {dst : Region} {k : LzwRun} (code : Nat) (hd : ∀ j, j < dst.len → dst.base + j < bound)
    (hk : k.InBounds bound) : (lzwOrdinary dst k code).1.InBounds bound := by
  obtain ⟨hm, ht⟩ := hk
  unfold lzwOrdinary
  split
  · split
    · exact ⟨hm, ht⟩
    · split
      · exact ⟨hm, ht⟩
      · next out first _ hfit =>
        refine ⟨memFill_below_of_lt _ _ _ hm fun j hj => ?_, addEntry_below _ _ ht⟩
        rw [Nat.add_assoc]
        exact hd _ (by omega)
  · exact ⟨hm, ht⟩

theorem lzwCodeStep_inBounds (src : Region) {dst : Region} {k : LzwRun} (hd : ∀ j, j < dst.len → dst.base + j < bound)
    (hk : k.InBounds bound) : (lzwCodeStep src dst k).1.InBounds bound := by
  unfold lzwCodeStep
  split
  · exact hk
  · exact hk
  · split
    · exact hk
    · split
      · exact hk
      · exact lzwOrdinary_inBounds _ hd hk

theorem lzwLoop_inBounds (src : Region) {dst : Region} (n : Nat) {k : LzwRun} (hd : ∀ j, j < dst.len → dst.base + j < bound)
    (hk : k.InBounds bound) : (lzwLoop src dst n k).1.InBounds bound := by
  induction n generalizing k with
  | zero => exact hk
  | succ n ih =>
    have hstep := lzwCodeStep_inBounds src hd hk
    unfold lzwLoop
    split
    · next k' e h => rwa [h] at hstep
    · next k' h => rw [h] at hstep; exact ih hstep

end

/-! ### What the start checks give -/

/-- An address of a region in range is below MEM_BYTES (R64). -/
theorem InMem.lt {p : Params} {base len n : Nat} (h : InMem p base len) (hn : n ≤ len) (j : Nat) (hj : j < n) :
    base + j < p.memBytes := by
  unfold InMem at h
  omega

theorem srcDstChecks_dst {p : Params} {L : Args} (h : firstError (srcDstChecks p L) = none) :
    InMem p L.dstAddr.toNat L.dstLen.toNat := by
  rw [firstError_eq_none] at h
  exact (rangeCheck_eq_none p .dst L.dst).1 (h _ (by simp [srcDstChecks]))

/-- Checks that hold RANGE of DST and DST_SHORT put every byte of DST the command needs below MEM_BYTES. -/
theorem dst_below_of_checks {p : Params} {L : Args} {cs : List (Option CmdError)} {needed : Nat} (h : firstError cs = none)
    (hr : rangeCheck p .dst L.dst ∈ cs) (hs : dstShortCheck L needed ∈ cs) (j : Nat) (hj : j < needed) :
    L.dstAddr.toNat + j < p.memBytes := by
  rw [firstError_eq_none] at h
  have hin := (rangeCheck_eq_none p .dst L.dst).1 (h _ hr)
  exact hin.lt ((dstShortCheck_eq_none L needed).1 (h _ hs)) j hj

theorem rangeCheck_dst_mem_rasterChecks (p : Params) (L : Args) (a b : Nat) :
    rangeCheck p .dst L.dst ∈ rasterChecks p L a b := by
  simp [rasterChecks, srcDstChecks]

theorem dstShortCheck_mem_rasterChecks (p : Params) (L : Args) (a b : Nat) : dstShortCheck L b ∈ rasterChecks p L a b := by
  simp [rasterChecks]

theorem rasterChecks_dst_below {p : Params} {L : Args} {a b : Nat} (h : firstError (rasterChecks p L a b) = none) :
    ∀ j, j < b → L.dstAddr.toNat + j < p.memBytes :=
  dst_below_of_checks h (rangeCheck_dst_mem_rasterChecks p L a b) (dstShortCheck_mem_rasterChecks p L a b)

theorem expandChecks_dst_below {p : Params} {L : Args} {r : Raster} (h : firstError (expandChecks p L r) = none) :
    ∀ j, j < 4 * r.w * r.h → L.dstAddr.toNat + j < p.memBytes := by
  refine dst_below_of_checks h ?_ (by simp [expandChecks])
  unfold expandChecks
  split <;> simp [srcDstChecks]

/-! ### Changes of the state that keep the memories within their sizes -/

/-- The parameters stay, and memories within their sizes stay so. -/
def State.KeepsBounds (s t : State) : Prop := t.params = s.params ∧ (s.RamsInBounds → t.RamsInBounds)

/-- Parameters and memories are as before. -/
structure State.SameRams (s t : State) : Prop where
  params    : t.params = s.params
  mem       : t.mem = s.mem
  codeTable : t.codeTable = s.codeTable
  lineBuf   : t.lineBuf = s.lineBuf

theorem State.SameRams.keepsBounds {s t : State} (h : State.SameRams s t) : State.KeepsBounds s t := by
  refine ⟨h.params, fun hs => ?_⟩
  unfold State.RamsInBounds
  rwa [h.params, h.mem, h.codeTable, h.lineBuf]

theorem State.SameRams.trans {s t u : State} (h : State.SameRams s t) (h' : State.SameRams t u) : State.SameRams s u :=
  ⟨h'.params.trans h.params, h'.mem.trans h.mem, h'.codeTable.trans h.codeTable, h'.lineBuf.trans h.lineBuf⟩

theorem State.KeepsBounds.trans {s t u : State} (h : State.KeepsBounds s t) (h' : State.KeepsBounds t u) :
    State.KeepsBounds s u := by
  obtain ⟨hp, hb⟩ := h
  obtain ⟨hp', hb'⟩ := h'
  exact ⟨hp'.trans hp, fun hs => hb' (hb hs)⟩

theorem State.raise_sameRams (s : State) (e : CmdError) : State.SameRams s (s.raise e) := ⟨rfl, rfl, rfl, rfl⟩

theorem State.withCounters_sameRams (s : State) (c : Counters) : State.SameRams s (s.withCounters c) := ⟨rfl, rfl, rfl, rfl⟩

theorem State.withPackRow_sameRams (s : State) (row : List Byte) : State.SameRams s (s.withPackRow row) := ⟨rfl, rfl, rfl, rfl⟩

theorem State.conclude_sameRams (s : State) (out : Nat) (e : Option CmdError) (flags : List Flag) :
    State.SameRams s (s.conclude out e flags) := by
  cases e with
  | none => exact ⟨rfl, rfl, rfl, rfl⟩
  | some e => exact ⟨rfl, rfl, rfl, rfl⟩

theorem State.withMem_keepsBounds (s : State) (m : Memory)
    (h : Ram.Below s.mem s.params.memBytes → Ram.Below m s.params.memBytes) : State.KeepsBounds s (s.withMem m) :=
  ⟨rfl, fun ⟨hm, ht, hl⟩ => ⟨h hm, ht, hl⟩⟩

/-- A command with start checks: its operation need only be looked at when they pass. -/
theorem State.checked_keepsBounds (s : State) (cs : List (Option CmdError)) (run : State)
    (h : firstError cs = none → State.KeepsBounds s run) : State.KeepsBounds s (s.checked cs run) := by
  obtain ⟨e, -, he⟩ | ⟨hc, he⟩ := s.checked_cases cs run _ rfl
  · rw [he]; exact (s.raise_sameRams e).keepsBounds
  · rw [he]; exact h hc

/-! ### Commands

Each operation changes the memories by its loops, and the rest of its completion leaves them alone. -/

theorem unfilterRun_keepsBounds (s : State) (r : Raster) (hd : ∀ j, j < r.rawLen → r.dst + j < s.params.memBytes) :
    State.KeepsBounds s (unfilterRun s r) :=
  (s.withMem_keepsBounds _ (unfilterRows_below r s.mem hd)).trans
    ((State.withCounters_sameRams _ _).trans (State.conclude_sameRams _ _ _ _)).keepsBounds

theorem filterRun_keepsBounds (s : State) (r : Raster) (code : Nat) (ft : FilterType)
    (hd : ∀ j, j < r.filteredLen → r.dst + j < s.params.memBytes) : State.KeepsBounds s (filterRun s r code ft) :=
  (s.withMem_keepsBounds _ (filterRows_below r code ft s.mem hd)).trans
    ((State.withCounters_sameRams _ _).trans (State.conclude_sameRams _ r.h none [])).keepsBounds

theorem expandRun_keepsBounds (s : State) (r : Raster) (hd : ∀ j, j < 4 * r.w * r.h → r.dst + j < s.params.memBytes) :
    State.KeepsBounds s (expandRun s r) :=
  (s.withMem_keepsBounds _ (expandPixels_below s.latch r s.mem hd)).trans
    ((State.withCounters_sameRams _ _).trans (State.conclude_sameRams _ _ _ _)).keepsBounds

theorem packRun_keepsBounds (s : State) (r : Raster) (hd : ∀ j, j < r.rawLen → r.dst + j < s.params.memBytes) :
    State.KeepsBounds s (packRun s r) :=
  (s.withMem_keepsBounds _ (packRows_below r s.mem hd)).trans
    ((State.withPackRow_sameRams _ _).trans
      ((State.withCounters_sameRams _ _).trans (State.conclude_sameRams _ _ _ _))).keepsBounds

theorem adam7Run_keepsBounds (s : State) (r : Raster) (hf : r.fmt.depth ∈ r.fmt.ct.depths)
    (hd : ∀ j, j < r.rawLen → r.dst + j < s.params.memBytes) (hl : r.bpl ≤ s.params.lineBufBytes) :
    State.KeepsBounds s (adam7Run s r) := by
  have hrams : State.KeepsBounds s ((s.withMem (adam7Passes r s.mem s.lineBuf).1.mem).withLineBuf
      (adam7Passes r s.mem s.lineBuf).1.lb) := by
    refine ⟨rfl, fun ⟨hmem, htable, hline⟩ => ?_⟩
    obtain ⟨hmem', hline'⟩ := adam7Passes_inBounds r s.mem s.lineBuf hf hd hl hmem hline
    exact ⟨hmem', htable, hline'⟩
  exact hrams.trans ((State.withCounters_sameRams _ _).trans (State.conclude_sameRams _ _ _ _)).keepsBounds

theorem crcUpdateRun_sameRams (s : State) : State.SameRams s (crcUpdateRun s) := ⟨rfl, rfl, rfl, rfl⟩

theorem lzwDecodeFrom_keepsBounds {s t : State} (m : Nat)
    (hd : ∀ j, j < s.latch.dst.len → s.latch.dst.base + j < s.params.memBytes)
    (h : lzwDecodeFrom s m = .next t) : State.KeepsBounds s t := by
  have hrams : State.KeepsBounds s (s.withLzw
      (lzwLoop s.latch.src s.latch.dst (lzwBound s.latch.src) ⟨Lzw.init m, s.codeTable, s.mem⟩).1) := by
    refine ⟨rfl, fun ⟨hmem, htable, hline⟩ => ?_⟩
    obtain ⟨hmem', htable'⟩ :=
      lzwLoop_inBounds s.latch.src (lzwBound s.latch.src) (k := ⟨Lzw.init m, s.codeTable, s.mem⟩) hd ⟨hmem, htable⟩
    exact ⟨hmem', htable', hline⟩
  obtain ⟨_, -, rfl⟩ | ⟨-, rfl⟩ | ⟨-, rfl⟩ := lzwComplete_cases _ _ _ _ h <;>
    exact hrams.trans (State.conclude_sameRams _ _ _ _).keepsBounds

theorem execUnfilter_keepsBounds {s t : State} (h : execUnfilter s = .next t) : State.KeepsBounds s t := by
  obtain ⟨-, rfl⟩ | ⟨f, -, rfl⟩ := execUnfilter_cases s t h
  · exact (s.raise_sameRams _).keepsBounds
  · exact s.checked_keepsBounds _ _ fun hc => unfilterRun_keepsBounds s _ (rasterChecks_dst_below hc)

theorem execFilter_keepsBounds {ftype : Nat} {s t : State} (h : execFilter ftype s = .next t) : State.KeepsBounds s t := by
  obtain ⟨-, rfl⟩ | ⟨ft, -, ⟨-, rfl⟩ | ⟨f, -, rfl⟩⟩ := execFilter_cases ftype s t h
  · exact (s.raise_sameRams _).keepsBounds
  · exact (s.raise_sameRams _).keepsBounds
  · exact s.checked_keepsBounds _ _ fun hc => filterRun_keepsBounds s _ ftype ft (rasterChecks_dst_below hc)

theorem execExpand_keepsBounds {s t : State} (h : execExpand s = .next t) : State.KeepsBounds s t := by
  obtain ⟨-, rfl⟩ | ⟨f, -, rfl⟩ := execExpand_cases s t h
  · exact (s.raise_sameRams _).keepsBounds
  · exact s.checked_keepsBounds _ _ fun hc => expandRun_keepsBounds s _ (expandChecks_dst_below hc)

theorem execPack_keepsBounds {s t : State} (h : execPack s = .next t) : State.KeepsBounds s t := by
  obtain ⟨-, rfl⟩ | ⟨f, -, rfl⟩ := execPack_cases s t h
  · exact (s.raise_sameRams _).keepsBounds
  · exact s.checked_keepsBounds _ _ fun hc => packRun_keepsBounds s _ (rasterChecks_dst_below hc)

theorem execAdam7_keepsBounds {s t : State} (h : execAdam7 s = .next t) : State.KeepsBounds s t := by
  obtain ⟨-, rfl⟩ | ⟨f, hf, rfl⟩ := execAdam7_cases s t h
  · exact (s.raise_sameRams _).keepsBounds
  · refine s.checked_keepsBounds _ _ fun hc => ?_
    have hline := (firstError_eq_none _).1 hc (lineBufCheck s.params (s.latch.raster f).bpl) (by simp)
    refine adam7Run_keepsBounds s _ (formatFor_depth_mem hf) ?_ ((lineBufCheck_eq_none _ _).1 hline)
    exact dst_below_of_checks hc (List.mem_append_left _ (rangeCheck_dst_mem_rasterChecks _ _ _ _))
      (List.mem_append_left _ (dstShortCheck_mem_rasterChecks _ _ _ _))

theorem execLzwDecode_keepsBounds {s t : State} (h : execLzwDecode s = .next t) : State.KeepsBounds s t := by
  obtain ⟨e, -, rfl⟩ | ⟨hc, ⟨e, -, rfl⟩ | ⟨b, -, ⟨-, rfl⟩ | ⟨-, -, hrun⟩⟩⟩ := execLzwDecode_cases s t h
  · exact (s.raise_sameRams _).keepsBounds
  · exact (s.conclude_sameRams _ _ _).keepsBounds
  · exact (s.conclude_sameRams _ _ _).keepsBounds
  · exact lzwDecodeFrom_keepsBounds _ ((srcDstChecks_dst hc).lt le_rfl) hrun

theorem exec_keepsBounds {i : Instr} {s t : State} (h : exec i s = .next t) : State.KeepsBounds s t := by
  cases i with
  | nop => cases h; exact (s.conclude_sameRams 0 none []).keepsBounds
  | lzwDecode => exact execLzwDecode_keepsBounds h
  | crcInit => cases h; exact State.SameRams.keepsBounds ⟨rfl, rfl, rfl, rfl⟩
  | crcUpdate =>
    rw [execCrcUpdate_cases s t h]
    exact s.checked_keepsBounds _ _ fun _ => (crcUpdateRun_sameRams s).keepsBounds
  | unfilter => exact execUnfilter_keepsBounds h
  | filter ftype => exact execFilter_keepsBounds h
  | expand => exact execExpand_keepsBounds h
  | pack => exact execPack_keepsBounds h
  | adam7Deinterlace => exact execAdam7_keepsBounds h

/-! ### Steps -/

theorem runCommand_keepsBounds {s t : State} (h : runCommand s = .next t) : State.KeepsBounds s t := by
  obtain ⟨_, -, rfl⟩ | ⟨i, -, hi⟩ := runCommand_cases s t h
  · exact (s.raise_sameRams _).keepsBounds
  · exact exec_keepsBounds hi

theorem State.regWrite_sameRams (s : State) (r : Reg) (v : Word) : State.SameRams s (s.regWrite r v) := by
  cases r with
  | cmd | crcState => simp only [State.regWrite]; split <;> exact ⟨rfl, rfl, rfl, rfl⟩
  | _ => exact ⟨rfl, rfl, rfl, rfl⟩

theorem State.portWrite_sameRams (s : State) (off : Nat) (v : Word) : State.SameRams s (s.portWrite off v) := by
  obtain ⟨-, h⟩ | ⟨r, -, h⟩ := s.portWrite_cases off v
  · rw [h]; exact ⟨rfl, rfl, rfl, rfl⟩
  · rw [h]; exact s.regWrite_sameRams r v

theorem State.portRead_sameRams (s : State) (off : Nat) : State.SameRams s (s.portRead off) := by
  obtain ⟨-, h⟩ | ⟨r, -, ⟨-, h⟩ | ⟨-, h⟩⟩ := s.portRead_cases off <;> rw [h] <;> exact ⟨rfl, rfl, rfl, rfl⟩

theorem State.withQueue_sameRams (s : State) (q : List HostReq) : State.SameRams s (s.withQueue q) := ⟨rfl, rfl, rfl, rfl⟩

/-- The one transaction that writes a memory is MEMW, and it is served below MEM_BYTES only (R65). -/
theorem State.serve_keepsBounds {s t : State} {q : HostReq} {rest : List HostReq} (h : s.serve q rest = .next t) :
    State.KeepsBounds s t := by
  have hq := s.withQueue_sameRams rest
  obtain ⟨off, v, -, -, rfl⟩ | ⟨off, -, -, rfl⟩ | ⟨a, b, -, ha, rfl⟩ | ⟨a, -, -, rfl⟩ | ⟨-, rfl⟩ := s.serve_cases t q rest h
  · exact (hq.trans (State.portWrite_sameRams _ off v)).keepsBounds
  · exact (hq.trans (State.portRead_sameRams _ off)).keepsBounds
  · exact hq.keepsBounds.trans (State.withMem_keepsBounds _ _ fun hm => memWrite_below s.mem a b _ ha hm)
  · exact (hq.trans ⟨rfl, rfl, rfl, rfl⟩).keepsBounds
  · split
    · exact (State.portRead_sameRams s _).keepsBounds
    · exact (hq.trans (State.portRead_sameRams _ _)).keepsBounds

theorem State.hostTurn_keepsBounds {s t : State} (h : s.hostTurn = .next t) : State.KeepsBounds s t := by
  obtain ⟨-, rfl⟩ | ⟨q, rest, -, ⟨-, rfl⟩ | ⟨-, hq⟩⟩ := s.hostTurn_cases t h
  · exact ⟨rfl, id⟩
  · exact ⟨rfl, id⟩
  · exact State.serve_keepsBounds hq

theorem advance_keepsBounds {s t : State} (h : advance s = .next t) : State.KeepsBounds s t := by
  obtain ⟨-, -, hr⟩ | ⟨n, -, -, ht⟩ | ⟨-, ht⟩ := advance_cases s t h
  · exact runCommand_keepsBounds hr
  · have hs : State.SameRams s { s with busyLeft := n } := ⟨rfl, rfl, rfl, rfl⟩
    exact hs.keepsBounds.trans (State.hostTurn_keepsBounds ht)
  · exact State.hostTurn_keepsBounds ht

/-- The bytes that a reset makes free exist in MEM (R292). -/
theorem State.abandonedMem_below {s : State} (hm : Ram.Below s.mem s.params.memBytes) :
    Ram.Below s.abandonedMem s.params.memBytes := by
  unfold State.abandonedMem
  split
  · refine memFill_below_of_lt _ _ _ hm fun j hj => ?_
    unfold Region.existing at hj
    omega
  · exact hm

/-- Reset leaves nothing in the code table and the line buffer, and fills MEM within its size. -/
theorem State.assertReset_keepsBounds (s : State) : State.KeepsBounds s s.assertReset := by
  refine ⟨rfl, fun ⟨hmem, _, _⟩ => ⟨State.abandonedMem_below hmem, ?_, ?_⟩⟩
  · exact fun _ hc => absurd hc List.not_mem_nil
  · exact fun _ hc => absurd hc List.not_mem_nil

/-- Settles O24, by what a step can do: reset, a completing command, or one transaction of the host. -/
theorem stepKeepsMemoriesInBounds : Obligations.StepKeepsMemoriesInBounds := by
  unfold Obligations.StepKeepsMemoriesInBounds
  intro s t h
  obtain ⟨rest, -, rfl⟩ | ⟨-, ha⟩ | ⟨rest, -, ha⟩ := step_cases s t h
  · have hs : State.SameRams s { s with rstPin := rest } := ⟨rfl, rfl, rfl, rfl⟩
    exact hs.keepsBounds.trans (State.assertReset_keepsBounds _)
  · exact advance_keepsBounds ha
  · have hs : State.SameRams s { s with rstPin := rest } := ⟨rfl, rfl, rfl, rfl⟩
    exact hs.keepsBounds.trans (advance_keepsBounds ha)

end Sys2Proof.Machine
end

section
/-! SUPPORT. How every command ends (R261, R262, R265): which parts of the state its operation may touch, and how it concludes. With
it the completion of commands (R270) and their frame besides MEM (R85). -/

namespace Sys2Proof.Machine

/-! ### Completion -/

section
variable (s : State) (out : Nat) (e : Option CmdError) (flags : List Flag)

@[simp] theorem State.conclude_crcState : (s.conclude out e flags).crcState = s.crcState := by cases e <;> rfl
@[simp] theorem State.conclude_codeTable : (s.conclude out e flags).codeTable = s.codeTable := by cases e <;> rfl
@[simp] theorem State.conclude_lzw : (s.conclude out e flags).lzw = s.lzw := by cases e <;> rfl
@[simp] theorem State.conclude_lineBuf : (s.conclude out e flags).lineBuf = s.lineBuf := by cases e <;> rfl
@[simp] theorem State.conclude_packRow : (s.conclude out e flags).packRow = s.packRow := by cases e <;> rfl

/-- `conclude` ends by `finish` or by `raise`. -/
theorem State.conclude_status_cases :
    (e = none ∧ (s.conclude out e flags).status = s.status.finished flags) ∨
    ∃ err, e = some err ∧ (s.conclude out e flags).status = s.status.raised err.code := by
  cases e with
  | none => exact .inl ⟨rfl, rfl⟩
  | some err => exact .inr ⟨err, rfl, rfl⟩

end

theorem State.SameHostSide.refl (s : State) : State.SameHostSide s s := ⟨rfl, rfl, rfl, rfl, rfl, rfl, rfl, rfl, rfl, rfl, rfl⟩

theorem State.SameHostSide.trans {s t u : State} (h : State.SameHostSide s t) (k : State.SameHostSide t u) :
    State.SameHostSide s u where
  params := k.params.trans h.params
  irqEn := k.irqEn.trans h.irqEn
  dropped := k.dropped.trans h.dropped
  args := k.args.trans h.args
  command := k.command.trans h.command
  latch := k.latch.trans h.latch
  busyLeft := k.busyLeft.trans h.busyLeft
  draws := k.draws.trans h.draws
  hostQ := k.hostQ.trans h.hostQ
  answers := k.answers.trans h.answers
  rstPin := k.rstPin.trans h.rstPin

theorem State.raise_sameHostSide (s : State) (e : CmdError) : State.SameHostSide s (s.raise e) :=
  ⟨rfl, rfl, rfl, rfl, rfl, rfl, rfl, rfl, rfl, rfl, rfl⟩

theorem State.finish_sameHostSide (s : State) (flags : List Flag) : State.SameHostSide s (s.finish flags) :=
  ⟨rfl, rfl, Status.finished_dropped _ _, rfl, rfl, rfl, rfl, rfl, rfl, rfl, rfl⟩

theorem State.conclude_sameHostSide (s : State) (out : Nat) (e : Option CmdError) (flags : List Flag) :
    State.SameHostSide s (s.conclude out e flags) := by
  have hout : State.SameHostSide s (s.withOut out) := ⟨rfl, rfl, rfl, rfl, rfl, rfl, rfl, rfl, rfl, rfl, rfl⟩
  cases e with
  | none => exact hout.trans (State.finish_sameHostSide _ flags)
  | some e => exact hout.trans (State.raise_sameHostSide _ e)

/-! ### The work of a command -/

/-- What the operation of command `i` leaves alone before it concludes: STATUS, the host's side, and the registers and memories that
R85 gives to other commands. -/
structure State.WorkFrame (i : Instr) (s u : State) : Prop where
  hostSide  : State.SameHostSide s u
  status    : u.status = s.status
  crcState  : i ≠ .crcInit → i ≠ .crcUpdate → u.crcState = s.crcState
  lzwUnit   : i ≠ .lzwDecode → u.codeTable = s.codeTable ∧ u.lzw = s.lzw
  lineBuf   : i ≠ .adam7Deinterlace → u.lineBuf = s.lineBuf
  packRow   : i ≠ .pack → u.packRow = s.packRow

/-- The flags command `i` may set at its end (R261): LZW_DECODE alone sets any, and never TRUNC with SHORT (R132, R135). -/
def FlagsAllowed (i : Instr) (flags : List Flag) : Prop :=
  (i ≠ .lzwDecode → flags = []) ∧ ¬ (Flag.trunc ∈ flags ∧ Flag.short ∈ flags)

theorem flagsAllowed_nil (i : Instr) : FlagsAllowed i [] := ⟨fun _ => rfl, fun h => absurd h.1 List.not_mem_nil⟩

theorem flagsAllowed_trunc : FlagsAllowed .lzwDecode [.trunc] := ⟨fun h => absurd rfl h, by decide⟩

theorem flagsAllowed_streamFlags (z : Lzw) (n : Nat) : FlagsAllowed .lzwDecode (streamFlags z n) := by
  have htrunc : Flag.trunc ∉ streamFlags z n := by
    unfold streamFlags
    split <;> split <;> decide
  exact ⟨fun h => absurd rfl h, fun h => htrunc h.1⟩

/-- How command `i` ends from `s`: a start check raises, or the operation works on its own part of the state and concludes. -/
inductive CommandEnd (i : Instr) (s : State) : State → Prop
  | raised (e : CmdError) : CommandEnd i s (s.raise e)
  | concluded {u : State} (out : Nat) (e : Option CmdError) {flags : List Flag} (hu : State.WorkFrame i s u)
      (hf : FlagsAllowed i flags) : CommandEnd i s (u.conclude out e flags)

theorem State.WorkFrame.refl (i : Instr) (s : State) : State.WorkFrame i s s :=
  ⟨.refl s, rfl, fun _ _ => rfl, fun _ => ⟨rfl, rfl⟩, fun _ => rfl, fun _ => rfl⟩

/-- The row commands write MEM and the counters only. -/
theorem State.withMem_withCounters_workFrame (i : Instr) (s : State) (m : Memory) (c : Counters) :
    State.WorkFrame i s ((s.withMem m).withCounters c) :=
  ⟨⟨rfl, rfl, rfl, rfl, rfl, rfl, rfl, rfl, rfl, rfl, rfl⟩, rfl, fun _ _ => rfl, fun _ => ⟨rfl, rfl⟩, fun _ => rfl, fun _ => rfl⟩

/-- A command without flags whose operation runs when its start checks pass. -/
theorem State.checked_commandEnd {i : Instr} {s : State} (cs : List (Option CmdError)) {run : State}
    (h : CommandEnd i s run) : CommandEnd i s (s.checked cs run) := by
  obtain ⟨e, -, he⟩ | ⟨-, he⟩ := s.checked_cases cs run _ rfl
  · rw [he]; exact .raised e
  · rw [he]; exact h

theorem unfilterRun_commandEnd (s : State) (r : Raster) : CommandEnd .unfilter s (unfilterRun s r) :=
  .concluded _ _ (s.withMem_withCounters_workFrame _ _ _) (flagsAllowed_nil _)

theorem filterRun_commandEnd (s : State) (r : Raster) (ftype : Nat) (t : FilterType) :
    CommandEnd (.filter ftype) s (filterRun s r ftype t) :=
  .concluded r.h none (s.withMem_withCounters_workFrame _ _ _) (flagsAllowed_nil _)

theorem expandRun_commandEnd (s : State) (r : Raster) : CommandEnd .expand s (expandRun s r) :=
  .concluded _ _ (s.withMem_withCounters_workFrame _ _ _) (flagsAllowed_nil _)

/-- PACK writes its row register too. -/
theorem State.withPackRow_workFrame (s : State) (m : Memory) (row : List Byte) (c : Counters) :
    State.WorkFrame .pack s (((s.withMem m).withPackRow row).withCounters c) :=
  ⟨⟨rfl, rfl, rfl, rfl, rfl, rfl, rfl, rfl, rfl, rfl, rfl⟩, rfl, fun _ _ => rfl, fun _ => ⟨rfl, rfl⟩, fun _ => rfl,
    fun h => absurd rfl h⟩

/-- ADAM7_DEINTERLACE writes the line buffer too. -/
theorem State.withLineBuf_workFrame (s : State) (m : Memory) (lb : Ram 8) (c : Counters) :
    State.WorkFrame .adam7Deinterlace s (((s.withMem m).withLineBuf lb).withCounters c) :=
  ⟨⟨rfl, rfl, rfl, rfl, rfl, rfl, rfl, rfl, rfl, rfl, rfl⟩, rfl, fun _ _ => rfl, fun _ => ⟨rfl, rfl⟩,
    fun h => absurd rfl h, fun _ => rfl⟩

theorem packRun_commandEnd (s : State) (r : Raster) : CommandEnd .pack s (packRun s r) :=
  .concluded _ _ (s.withPackRow_workFrame _ _ _) (flagsAllowed_nil _)

theorem adam7Run_commandEnd (s : State) (r : Raster) : CommandEnd .adam7Deinterlace s (adam7Run s r) :=
  .concluded _ _ (s.withLineBuf_workFrame _ _ _) (flagsAllowed_nil _)

theorem State.withCrc_workFrame {i : Instr} (hi : i = .crcInit ∨ i = .crcUpdate) (s : State) (c : Word) :
    State.WorkFrame i s (s.withCrc c) :=
  ⟨⟨rfl, rfl, rfl, rfl, rfl, rfl, rfl, rfl, rfl, rfl, rfl⟩, rfl, fun h k => (hi.elim h k).elim, fun _ => ⟨rfl, rfl⟩,
    fun _ => rfl, fun _ => rfl⟩

theorem crcUpdateRun_commandEnd (s : State) : CommandEnd .crcUpdate s (crcUpdateRun s) := by
  refine .concluded s.latch.srcLen.toNat none ?_ (flagsAllowed_nil _)
  obtain ⟨hhost, hstatus, hcrc, hlzw, hline, hpack⟩ := s.withCrc_workFrame (.inr rfl) _
  exact ⟨hhost.trans ⟨rfl, rfl, rfl, rfl, rfl, rfl, rfl, rfl, rfl, rfl, rfl⟩, hstatus, hcrc, hlzw, hline, hpack⟩

theorem State.withLzw_workFrame (s : State) (k : LzwRun) : State.WorkFrame .lzwDecode s (s.withLzw k) :=
  ⟨⟨rfl, rfl, rfl, rfl, rfl, rfl, rfl, rfl, rfl, rfl, rfl⟩, rfl, fun _ _ => rfl, fun h => absurd rfl h, fun _ => rfl, fun _ => rfl⟩

theorem lzwDecodeFrom_commandEnd {s t : State} {m : Nat} (h : lzwDecodeFrom s m = .next t) : CommandEnd .lzwDecode s t := by
  obtain ⟨err, -, rfl⟩ | ⟨-, rfl⟩ | ⟨-, rfl⟩ := lzwComplete_cases _ _ _ _ h
  · exact .concluded _ _ (s.withLzw_workFrame _) (flagsAllowed_nil _)
  · exact .concluded _ _ (s.withLzw_workFrame _) flagsAllowed_trunc
  · exact .concluded _ _ (s.withLzw_workFrame _) (flagsAllowed_streamFlags _ _)

theorem execLzwDecode_commandEnd {s t : State} (h : execLzwDecode s = .next t) : CommandEnd .lzwDecode s t := by
  obtain ⟨e, -, rfl⟩ | ⟨-, ⟨e, -, rfl⟩ | ⟨b, -, ⟨-, rfl⟩ | ⟨-, -, hrun⟩⟩⟩ := execLzwDecode_cases s t h
  · exact .raised e
  · exact .concluded _ _ (.refl _ s) (flagsAllowed_nil _)
  · exact .concluded _ _ (.refl _ s) (flagsAllowed_nil _)
  · exact lzwDecodeFrom_commandEnd hrun

/-- Every command that answers a next state ends in one of the two ways. -/
theorem exec_commandEnd {i : Instr} {s t : State} (h : exec i s = .next t) : CommandEnd i s t := by
  cases i with
  | nop => cases h; exact .concluded 0 none (.refl _ s) (flagsAllowed_nil _)
  | lzwDecode => exact execLzwDecode_commandEnd h
  | crcInit => cases h; exact .concluded 0 none (s.withCrc_workFrame (.inl rfl) _) (flagsAllowed_nil _)
  | crcUpdate =>
    rw [execCrcUpdate_cases s t h]
    exact State.checked_commandEnd _ (crcUpdateRun_commandEnd s)
  | unfilter =>
    obtain ⟨-, rfl⟩ | ⟨f, -, rfl⟩ := execUnfilter_cases s t h
    · exact .raised _
    · exact State.checked_commandEnd _ (unfilterRun_commandEnd s _)
  | filter ftype =>
    obtain ⟨-, rfl⟩ | ⟨ft, -, ⟨-, rfl⟩ | ⟨f, -, rfl⟩⟩ := execFilter_cases ftype s t h
    · exact .raised _
    · exact .raised _
    · exact State.checked_commandEnd _ (filterRun_commandEnd s _ ftype ft)
  | expand =>
    obtain ⟨-, rfl⟩ | ⟨f, -, rfl⟩ := execExpand_cases s t h
    · exact .raised _
    · exact State.checked_commandEnd _ (expandRun_commandEnd s _)
  | pack =>
    obtain ⟨-, rfl⟩ | ⟨f, -, rfl⟩ := execPack_cases s t h
    · exact .raised _
    · exact State.checked_commandEnd _ (packRun_commandEnd s _)
  | adam7Deinterlace =>
    obtain ⟨-, rfl⟩ | ⟨f, -, rfl⟩ := execAdam7_cases s t h
    · exact .raised _
    · exact State.checked_commandEnd _ (adam7Run_commandEnd s _)

/-- STATUS at the end of a command: that of `finish` with its flags, or of `raise`. -/
theorem CommandEnd.status {i : Instr} {s t : State} (h : CommandEnd i s t) :
    (∃ flags, FlagsAllowed i flags ∧ t.status = s.status.finished flags) ∨ ∃ e : CmdError, t.status = s.status.raised e.code := by
  cases h with
  | raised e => exact .inr ⟨e, rfl⟩
  | @concluded u out e flags hu hf =>
    obtain ⟨-, h⟩ | ⟨err, -, h⟩ := u.conclude_status_cases out e flags
    · exact .inl ⟨flags, hf, by rw [h, hu.status]⟩
    · exact .inr ⟨err, by rw [h, hu.status]⟩

theorem CommandEnd.sameHostSide {i : Instr} {s t : State} (h : CommandEnd i s t) : State.SameHostSide s t := by
  cases h with
  | raised e => exact s.raise_sameHostSide e
  | concluded out e hu hf => exact hu.hostSide.trans (State.conclude_sameHostSide _ out e _)

theorem CommandEnd.done {i : Instr} {s t : State} (h : CommandEnd i s t) : t.status.done = true ∧ t.status.busy = false := by
  obtain ⟨flags, -, h⟩ | ⟨e, h⟩ := h.status <;> rw [h] <;> exact ⟨rfl, rfl⟩

/-- Settles O8: however a command ends, DONE is set and BUSY clear, and IRQ_EN is the host's. -/
theorem completionRaisesIrq : Obligations.CompletionRaisesIrq := by
  unfold Obligations.CompletionRaisesIrq
  intro i s t h
  have hend := exec_commandEnd h
  obtain ⟨hdone, hbusy⟩ := hend.done
  refine ⟨hdone, hbusy, ?_⟩
  rw [State.irq, hdone, hend.sameHostSide.irqEn, Bool.and_true]

/-- Without flags a command leaves TRUNC, SHORT and EOI as they are, by whichever way it ends. -/
theorem CommandEnd.flags_same {i : Instr} {s t : State} (h : CommandEnd i s t) (hi : i ≠ .lzwDecode) :
    t.status.trunc = s.status.trunc ∧ t.status.short = s.status.short ∧ t.status.eoi = s.status.eoi := by
  obtain ⟨flags, hf, h⟩ | ⟨e, h⟩ := h.status
  · rw [h, hf.1 hi]
    simp
  · rw [h]
    exact ⟨rfl, rfl, rfl⟩

/-- Settles O26: `raise` and `conclude` touch STATUS, OUT_COUNT and ERR_INFO only, and the operation its own units. -/
theorem commandFrame : Obligations.CommandFrame := by
  unfold Obligations.CommandFrame
  intro i s t h
  have hend := exec_commandEnd h
  have hflags := hend.flags_same
  refine ⟨hend.sameHostSide, ?_⟩
  cases hend with
  | raised e => exact ⟨fun _ _ => rfl, fun _ => ⟨rfl, rfl⟩, fun _ => rfl, fun _ => rfl, hflags⟩
  | concluded out e hu hf =>
    simp only [State.conclude_crcState, State.conclude_codeTable, State.conclude_lzw, State.conclude_lineBuf,
      State.conclude_packRow]
    exact ⟨hu.crcState, hu.lzwUnit, hu.lineBuf, hu.packRow, hflags⟩

end Sys2Proof.Machine
end

section
/-! SUPPORT. The invariants of STATUS (R29, R260 to R263): what each change of STATUS keeps, and that every step keeps them. -/

namespace Sys2Proof.Machine

/-! ### Changes of STATUS -/

/-- STATUS, OUT_COUNT and ERR_INFO are as before: all that the invariants of STATUS speak of. -/
structure State.SameResults (s t : State) : Prop where
  status   : t.status = s.status
  outCount : t.outCount = s.outCount
  errInfo  : t.errInfo = s.errInfo

theorem State.StatusOk.of_sameResults {s t : State} (hs : s.StatusOk) (h : State.SameResults s t) : t.StatusOk := by
  obtain ⟨hstatus, hout, herr⟩ := h
  obtain ⟨hclear, hresults, hflags, halone, hcode, hrange⟩ := hs
  constructor
  all_goals simpa only [hstatus, hout, herr]

/-- STATUS after reset has every bit 0, so the invariants hold with any results. -/
theorem State.statusOk_of_reset {s : State} (h : s.status = Status.reset) : s.StatusOk := by
  constructor
  all_goals simp [h, Status.reset]

/-- The start actions clear exactly what a running command must have cleared (R260). -/
theorem State.start_statusOk (s : State) (w : Word) : (s.start w).StatusOk where
  busyClear _ := ⟨rfl, rfl, rfl, rfl, rfl, rfl⟩
  busyResults _ := ⟨rfl, rfl⟩
  truncShort := by simp
  errAlone := by simp
  errCode := by simp
  codeRange := by simp

theorem State.dropWrite_statusOk {s : State} (hs : s.StatusOk) : s.dropWrite.StatusOk := by
  obtain ⟨hclear, hresults, hflags, halone, hcode, hrange⟩ := hs
  exact ⟨hclear, hresults, hflags, halone, hcode, hrange⟩

/-- Clearing flags keeps them clear, exclusive, and beside their code. -/
theorem State.acknowledge_statusOk {s : State} (v : Word) (hs : s.StatusOk) : (s.acknowledge v).StatusOk := by
  obtain ⟨hclear, hresults, hflags, halone, hcode, hrange⟩ := hs
  refine ⟨fun hb => ?_, hresults, ?_, ?_, ?_, hrange⟩
  · obtain ⟨hdone, herr, htrunc, hshort, heoi, hec⟩ := hclear hb
    simp [Status.writeOneClear, hdone, herr, htrunc, hshort, heoi, hec]
  · simp only [State.acknowledge_status, Status.writeOneClear, Bool.and_eq_true]
    exact fun ⟨⟨htrunc, _⟩, ⟨hshort, _⟩⟩ => hflags ⟨htrunc, hshort⟩
  · simp only [State.acknowledge_status, Status.writeOneClear, Bool.and_eq_true]
    rintro ⟨herr, -⟩
    obtain ⟨htrunc, hshort, heoi⟩ := halone herr
    simp [htrunc, hshort, heoi]
  · simp only [State.acknowledge_status, Status.writeOneClear, Bool.and_eq_true]
    exact fun ⟨herr, _⟩ => hcode herr

/-- The twelve error codes (R263). -/
theorem CmdError.code_range (e : CmdError) : e.code ≠ 0 ∧ e.code.toNat ≤ 12 := by
  cases e <;> simp [CmdError.code]

/-- A running command ends with at most one of TRUNC and SHORT, and an error finds the flags cleared by its start. -/
theorem CommandEnd.statusOk {i : Instr} {s t : State} (h : CommandEnd i s t) (hs : s.StatusOk) (hb : s.status.busy = true) :
    t.StatusOk := by
  obtain ⟨-, herr, htrunc, hshort, heoi, hec⟩ := hs.busyClear hb
  obtain ⟨flags, ⟨-, hflags⟩, h⟩ | ⟨e, h⟩ := h.status
  · constructor
    case truncShort =>
      rintro ⟨ht, hsh⟩
      exact hflags ⟨by simpa [h, htrunc] using ht, by simpa [h, hshort] using hsh⟩
    all_goals simp [h, herr, hec]
  · obtain ⟨hne, hle⟩ := e.code_range
    constructor
    case errCode => simpa [h] using hne
    case codeRange => simpa [h] using hle
    all_goals simp [h, htrunc, hshort, heoi]

/-! ### Steps -/

/-- What the completion step can do: an illegal word ends as a raising command does (R83). -/
theorem runCommand_commandEnd {s t : State} (h : runCommand s = .next t) : ∃ i, CommandEnd i s t := by
  obtain ⟨_, -, rfl⟩ | ⟨i, -, hi⟩ := runCommand_cases s t h
  · exact ⟨.nop, .raised (.illegalCmd s.command)⟩
  · exact ⟨i, exec_commandEnd hi⟩

/-- A write of the port touches STATUS, OUT_COUNT or ERR_INFO at CMD, STATUS and CRC_STATE only. -/
theorem State.regWrite_statusOk {s : State} (r : Reg) (v : Word) (hs : s.StatusOk) : (s.regWrite r v).StatusOk := by
  cases r with
  | cmd =>
    simp only [State.regWrite]
    split
    · exact State.dropWrite_statusOk hs
    · exact s.start_statusOk v
  | status => exact State.acknowledge_statusOk v hs
  | crcState =>
    simp only [State.regWrite]
    split
    · exact State.dropWrite_statusOk hs
    · exact hs.of_sameResults ⟨rfl, rfl, rfl⟩
  | _ => exact hs.of_sameResults ⟨rfl, rfl, rfl⟩

theorem State.portWrite_statusOk {s : State} (off : Nat) (v : Word) (hs : s.StatusOk) : (s.portWrite off v).StatusOk := by
  obtain ⟨-, h⟩ | ⟨r, -, h⟩ := s.portWrite_cases off v
  · rwa [h]
  · rw [h]; exact State.regWrite_statusOk r v hs

theorem State.portRead_sameResults (s : State) (off : Nat) : State.SameResults s (s.portRead off) := by
  obtain ⟨-, h⟩ | ⟨r, -, ⟨-, h⟩ | ⟨-, h⟩⟩ := s.portRead_cases off <;> rw [h] <;> exact ⟨rfl, rfl, rfl⟩

theorem State.serve_statusOk {s t : State} {q : HostReq} {rest : List HostReq} (h : s.serve q rest = .next t)
    (hs : s.StatusOk) : t.StatusOk := by
  have hq : (s.withQueue rest).StatusOk := hs.of_sameResults ⟨rfl, rfl, rfl⟩
  obtain ⟨off, v, -, -, rfl⟩ | ⟨off, -, -, rfl⟩ | ⟨a, b, -, -, rfl⟩ | ⟨a, -, -, rfl⟩ | ⟨-, rfl⟩ := s.serve_cases t q rest h
  · exact State.portWrite_statusOk off v hq
  · exact hq.of_sameResults (State.portRead_sameResults _ off)
  · exact hs.of_sameResults ⟨rfl, rfl, rfl⟩
  · exact hs.of_sameResults ⟨rfl, rfl, rfl⟩
  · split
    · exact hs.of_sameResults (State.portRead_sameResults s _)
    · exact hq.of_sameResults (State.portRead_sameResults _ _)

theorem State.hostTurn_statusOk {s t : State} (h : s.hostTurn = .next t) (hs : s.StatusOk) : t.StatusOk := by
  obtain ⟨-, rfl⟩ | ⟨q, rest, -, ⟨-, rfl⟩ | ⟨-, hq⟩⟩ := s.hostTurn_cases t h
  · exact hs
  · exact hs
  · exact State.serve_statusOk hq hs

theorem advance_statusOk {s t : State} (h : advance s = .next t) (hs : s.StatusOk) : t.StatusOk := by
  obtain ⟨hb, -, hr⟩ | ⟨n, -, -, ht⟩ | ⟨-, ht⟩ := advance_cases s t h
  · obtain ⟨i, hend⟩ := runCommand_commandEnd hr
    exact hend.statusOk hs hb
  · exact State.hostTurn_statusOk ht (hs.of_sameResults ⟨rfl, rfl, rfl⟩)
  · exact State.hostTurn_statusOk ht hs

/-- Settles O25, by what a step can do: reset, a command that ends, or one transaction of the host. -/
theorem stepKeepsStatusInvariant : Obligations.StepKeepsStatusInvariant := by
  unfold Obligations.StepKeepsStatusInvariant
  intro s t hs h
  obtain ⟨rest, -, rfl⟩ | ⟨-, ha⟩ | ⟨rest, -, ha⟩ := step_cases s t h
  · exact State.statusOk_of_reset rfl
  · exact advance_statusOk ha hs
  · exact advance_statusOk ha (hs.of_sameResults ⟨rfl, rfl, rfl⟩)

/-! ### Reset -/

/-- Settles O22: at power-on no memory lists anything, and STATUS is all 0. -/
theorem resetHasTheInvariants : Obligations.ResetHasTheInvariants := by
  unfold Obligations.ResetHasTheInvariants
  refine ⟨⟨reset_mem_wf, List.Pairwise.nil, List.Pairwise.nil⟩, ⟨?_, ?_, ?_⟩, State.statusOk_of_reset rfl⟩
  all_goals exact fun _ hc => absurd hc List.not_mem_nil

/-- Reset gives every register the value it has after power-on, whatever ran before (R290). -/
theorem State.assertReset_regValue (s : State) (r : Reg) : s.assertReset.regValue r = State.reset.regValue r := by
  cases r <;> rfl

/-- The reset column of R22. -/
theorem reset_regValue (r : Reg) : State.reset.regValue r = if r = .crcState then 0xFFFFFFFF else 0 := by
  cases r <;> decide

/-- Settles O20. -/
theorem resetRegisterValues : Obligations.ResetRegisterValues := by
  unfold Obligations.ResetRegisterValues
  refine ⟨reset_regValue, fun s rest h => ⟨State.assertReset { s with rstPin := rest }, ?_, fun r => ?_⟩⟩
  · rw [step, stepOnce, h]
  · rw [State.assertReset_regValue, reset_regValue]

end Sys2Proof.Machine
end

section
/-! SUPPORT. The register port (R22 to R42, R50, R51): the register map both ways, what each write stores and each read returns, and
the step that serves a register access. -/

namespace Sys2Proof.Machine

/-! ### The register map (R22) -/

theorem regAt_eq_some_iff (off : Nat) (r : Reg) : regAt off = some r ↔ off = offsetOf r := by
  constructor
  · intro h
    unfold regAt at h
    split at h <;> cases h <;> rfl
  · rintro rfl
    cases r <;> rfl

@[simp] theorem regAt_offsetOf (r : Reg) : regAt (offsetOf r) = some r := (regAt_eq_some_iff _ r).2 rfl

theorem offsetOf_le (r : Reg) : offsetOf r ≤ 0x50 := by cases r <;> decide

@[simp] theorem portOffsetOk_offsetOf (r : Reg) : portOffsetOk (offsetOf r) = true := by cases r <;> rfl

/-- No register lies above ERR_INFO (R42). -/
theorem regAt_above {off : Nat} (h : 0x50 < off) : regAt off = none := by
  cases hr : regAt off with
  | none => rfl
  | some r =>
    have hoff := (regAt_eq_some_iff off r).1 hr
    have hle := offsetOf_le r
    omega

theorem portOffsetOk_of {off : Nat} (h : off % 4 = 0) (h' : off ≤ 0xFC) : portOffsetOk off = true := decide_eq_true ⟨h, h'⟩

/-! ### Writes -/

@[simp] theorem State.portWrite_offsetOf (s : State) (r : Reg) (v : Word) : s.portWrite (offsetOf r) v = s.regWrite r v := by
  rw [State.portWrite, regAt_offsetOf]

theorem State.portWrite_above (s : State) {off : Nat} (v : Word) (h : 0x50 < off) : s.portWrite off v = s := by
  rw [State.portWrite, regAt_above h]

theorem State.regWrite_cmd_of_idle {s : State} (hb : s.status.busy = false) (v : Word) : s.regWrite .cmd v = s.start v := by
  simp [State.regWrite, hb]

theorem State.regWrite_cmd_of_busy {s : State} (hb : s.status.busy = true) (v : Word) : s.regWrite .cmd v = s.dropWrite := by
  simp [State.regWrite, hb]

theorem State.regWrite_crcState_of_idle {s : State} (hb : s.status.busy = false) (v : Word) :
    s.regWrite .crcState v = s.withCrc v := by
  simp [State.regWrite, hb]

theorem State.regWrite_crcState_of_busy {s : State} (hb : s.status.busy = true) (v : Word) :
    s.regWrite .crcState v = s.dropWrite := by
  simp [State.regWrite, hb]

/-- The argument registers (R31 to R36), in the order of the map. -/
def argumentRegs : List Reg :=
  [.srcAddr, .srcLen, .dstAddr, .dstLen, .width, .height, .format, .plteAddr, .plteCount, .trnsAddr, .trnsLen, .tkey0, .tkey1,
   .tkey2]

theorem mem_argumentRegs_iff (r : Reg) : r ∈ argumentRegs ↔ 0x0C ≤ offsetOf r ∧ offsetOf r ≤ 0x40 := by
  cases r <;> decide

theorem argumentRegs_ne {r : Reg} (hr : r ∈ argumentRegs) : r ≠ .cmd ∧ r ≠ .status ∧ r ≠ .crcState := by
  fin_cases hr <;> decide

/-- A write of an argument register changes the argument registers only, busy or idle. -/
theorem State.regWrite_argument {r : Reg} (hr : r ∈ argumentRegs) (s : State) (v : Word) :
    s.regWrite r v = s.setArgs (s.regWrite r v).args := by
  fin_cases hr <;> rfl

/-- The claims' table of argument writes is what the model's writes store. -/
theorem argumentWrites_eq (s : State) (v : Word) :
    argumentWrites s.args v = argumentRegs.map (fun r => (offsetOf r, (s.regWrite r v).args)) := rfl

/-- What a register reads after a write of `v` that was not dropped, by its offset: CTRL keeps bit 0, the keys bits 15:0, and the
registers from CRC_RESULT on are read-only. -/
def Reg.readBack (r : Reg) (old v : Word) : Word :=
  if r = .ctrl then v &&& 1
  else if 0x38 ≤ offsetOf r ∧ offsetOf r ≤ 0x40 then v &&& 0xFFFF
  else if 0x48 ≤ offsetOf r then old
  else v

theorem setWidth_key (v : Word) : (v.setWidth 16).setWidth 32 = v &&& 0xFFFF := by
  apply BitVec.eq_of_toNat_eq
  rw [BitVec.toNat_and, BitVec.toNat_setWidth, BitVec.toNat_setWidth]
  have hmask : (0xFFFF : Word).toNat = 2 ^ 16 - 1 := rfl
  rw [hmask, Nat.and_two_pow_sub_one_eq_mod]
  omega

/-- Bit 0 of a word, as a number. -/
theorem getLsbD_zero_eq_decide (v : Word) : v.getLsbD 0 = decide (v.toNat % 2 = 1) := by
  simp [BitVec.getLsbD, Nat.testBit_zero]

theorem setWidth_bit_zero (v : Word) : (BitVec.ofBool (v.getLsbD 0)).setWidth 32 = v &&& 1 := by
  apply BitVec.eq_of_toNat_eq
  rw [BitVec.toNat_and, BitVec.toNat_setWidth, BitVec.toNat_ofBool, getLsbD_zero_eq_decide]
  have hmask : (1 : Word).toNat = 2 ^ 1 - 1 := rfl
  rw [hmask, Nat.and_two_pow_sub_one_eq_mod]
  by_cases h : v.toNat % 2 = 1
  · simp [h]
  · simp [h]; omega

section
variable {s : State} {r : Reg} (hc : r ≠ .cmd) (hs : r ≠ .status) (hb : r = .crcState → s.status.busy = false) (v : Word)
include hc hs hb

theorem State.regWrite_status_same : (s.regWrite r v).status = s.status := by
  cases r with
  | cmd => exact absurd rfl hc
  | status => exact absurd rfl hs
  | crcState => rw [State.regWrite_crcState_of_idle (hb rfl)]; rfl
  | _ => rfl

theorem State.regValue_regWrite_self : (s.regWrite r v).regValue r = r.readBack (s.regValue r) v := by
  cases r with
  | cmd => exact absurd rfl hc
  | status => exact absurd rfl hs
  | ctrl => exact setWidth_bit_zero v
  | tkey0 | tkey1 | tkey2 => exact setWidth_key v
  | crcState => rw [State.regWrite_crcState_of_idle (hb rfl)]; rfl
  | _ => rfl

/-- A write reaches one register; CRC_RESULT alone is read from another register's storage (R39). In the table of the written
register `r` against the read register `q` the diagonal is excluded, and off it the two name different fields. -/
theorem State.regValue_regWrite_of_ne {q : Reg} (hq : q ≠ r) (hcrc : q = .crcResult → r ≠ .crcState) :
    (s.regWrite r v).regValue q = s.regValue q := by
  cases r with
  | cmd => exact absurd rfl hc
  | status => exact absurd rfl hs
  | crcState =>
    rw [State.regWrite_crcState_of_idle (hb rfl)]
    cases q with
    | crcState => exact absurd rfl hq
    | crcResult => exact absurd rfl (hcrc rfl)
    | _ => rfl
  | _ => cases q <;> first | exact absurd rfl hq | rfl

end

/-! ### Reads -/

theorem State.portRead_above (s : State) {off : Nat} (h : 0x50 < off) : s.portRead off = s.answer (.reg off 0) := by
  rw [State.portRead, regAt_above h]

/-- A read is exact unless it is one of R51's while BUSY. -/
theorem State.portRead_exact {s : State} {r : Reg} (h : (s.status.busy && openWhileBusy r) = false) :
    s.portRead (offsetOf r) = s.answer (.reg (offsetOf r) (s.regValue r)) := by
  simp [State.portRead, h]

theorem State.portRead_open {s : State} {r : Reg} (h : (s.status.busy && openWhileBusy r) = true) :
    s.portRead (offsetOf r) =
      { s.answer (.reg (offsetOf r) (Config.busyRead s.draws)) with draws := s.draws + 1 } := by
  simp [State.portRead, h]

theorem openWhileBusy_iff (r : Reg) :
    openWhileBusy r = true ↔ r = .crcState ∨ r = .crcResult ∨ r = .outCount ∨ r = .errInfo := by
  cases r <;> decide

theorem setWidth_irqEn (b : Bool) : (BitVec.ofBool b).setWidth 32 = if b then (1 : Word) else 0 := by
  cases b <;> rfl

/-- The registers in the order of the map. -/
def allRegs : List Reg :=
  [.cmd, .status, .ctrl] ++ argumentRegs ++ [.crcState, .crcResult, .outCount, .errInfo]

/-- The claims' register map is what the model's registers read. -/
theorem registerMap_eq (s : State) : registerMap s = allRegs.map (fun r => (offsetOf r, s.regValue r)) := by
  simp [registerMap, allRegs, argumentRegs, offsetOf, State.regValue, setWidth_irqEn]

/-! ### The step that serves the host -/

theorem step_of_rst_nil {s : State} (h : s.rstPin = []) : step s = advance s := by
  rw [step, stepOnce, h]

/-- With `rst` low a step is `advance`. -/
theorem step_of_low {s : State} {rest : List Bool} (h : s.rstPin = false :: rest ∨ (s.rstPin = [] ∧ rest = [])) :
    step s = advance { s with rstPin := rest } := by
  obtain h | ⟨h, rfl⟩ := h
  · rw [step, stepOnce, h]
  · rw [step_of_rst_nil h, ← h]

theorem advance_completion {s : State} (hb : s.status.busy = true) (hl : s.busyLeft = 0) : advance s = runCommand s := by
  simp [advance, hb, hl]

theorem step_completion {s : State} (hr : s.rstPin = []) (hb : s.status.busy = true) (hl : s.busyLeft = 0) :
    step s = runCommand s := by
  rw [step_of_rst_nil hr, advance_completion hb hl]

theorem runCommand_of_ok {s : State} {i : Instr} (h : decode s.command = .ok i) : runCommand s = exec i s := by
  rw [runCommand, h]

theorem State.hostReady_of_idle {s : State} (hr : s.rstPin = []) (hb : s.status.busy = false) : s.hostReady :=
  ⟨hr, fun h => by rw [hb] at h; cases h⟩

theorem State.hostReady_of_waiting {s : State} {n : Nat} (hr : s.rstPin = []) (hl : s.busyLeft = n + 1) : s.hostReady :=
  ⟨hr, fun _ => by rw [hl]; exact Nat.succ_ne_zero n⟩

theorem State.ticked_of_idle {s : State} (hb : s.status.busy = false) (rest : List HostReq) :
    s.ticked rest = s.withQueue rest := by
  simp [State.ticked, State.withQueue, hb]

theorem State.ticked_of_waiting {s : State} {n : Nat} (hb : s.status.busy = true) (hl : s.busyLeft = n + 1)
    (rest : List HostReq) : s.ticked rest = { s with busyLeft := n, hostQ := rest } := by
  simp [State.ticked, hb, hl]

@[simp] theorem State.ticked_status (s : State) (rest : List HostReq) : (s.ticked rest).status = s.status := rfl

@[simp] theorem State.ticked_regValue (s : State) (rest : List HostReq) (r : Reg) :
    (s.ticked rest).regValue r = s.regValue r := by
  cases r <;> rfl

/-- A ready host's step is its turn, with one step of waiting less for a running command. -/
theorem step_of_hostReady {s : State} (h : s.hostReady) :
    step s = State.hostTurn { s with busyLeft := if s.status.busy then s.busyLeft - 1 else s.busyLeft } := by
  obtain ⟨hr, hl⟩ := h
  rw [step_of_rst_nil hr]
  cases hb : s.status.busy with
  | false => simp [advance, hb]
  | true =>
    obtain ⟨n, hn⟩ := Nat.exists_eq_succ_of_ne_zero (hl hb)
    simp [advance, hb, hn]

section
variable {s : State} (h : s.hostReady) {rest : List HostReq}
include h

/-- A write inside the interface is served at once, whether or not the block is BUSY. -/
theorem step_wr {off : Nat} {v : Word} (hq : s.hostQ = .wr off v :: rest) (ho : portOffsetOk off = true) :
    step s = .next ((s.ticked rest).portWrite off v) := by
  rw [step_of_hostReady h]
  simp only [State.hostTurn, hq, HostReq.held, State.serve, ho, if_true, Bool.false_eq_true, if_false]
  rfl

theorem step_rd {off : Nat} (hq : s.hostQ = .rd off :: rest) (ho : portOffsetOk off = true) :
    step s = .next ((s.ticked rest).portRead off) := by
  rw [step_of_hostReady h]
  simp only [State.hostTurn, hq, HostReq.held, State.serve, ho, if_true, Bool.false_eq_true, if_false]
  rfl

theorem step_wr_reg {r : Reg} {v : Word} (hq : s.hostQ = .wr (offsetOf r) v :: rest) :
    step s = .next ((s.ticked rest).regWrite r v) := by
  rw [step_wr h hq (portOffsetOk_offsetOf r), State.portWrite_offsetOf]

theorem step_rd_reg {r : Reg} (hq : s.hostQ = .rd (offsetOf r) :: rest) :
    step s = .next ((s.ticked rest).portRead (offsetOf r)) :=
  step_rd h hq (portOffsetOk_offsetOf r)

end

end Sys2Proof.Machine
end

section
/-! SUPPORT. The statements about host accesses and starting a command (R24 to R51, R260, R301), by the rules of the register port. -/

namespace Sys2Proof.Machine

/-! ### Starting and running a command -/

theorem withFetchWord_eq (s : State) (w : Word) : s.withFetchWord 32 w.toNat = s.aboutToRun w := by
  rw [State.withFetchWord, Nat.mod_eq_of_lt w.isLt, BitVec.ofNat_toNat, BitVec.setWidth_eq]

/-- Settles O4: at the completion step nothing comes before the command, and a placed word is at its completion step. -/
theorem stepRunsTheLatchedCommand : Obligations.StepRunsTheLatchedCommand := by
  unfold Obligations.StepRunsTheLatchedCommand
  refine ⟨fun s i rest hb hl hr hd => ?_, fun s w i hd => ?_⟩
  · rw [step_of_low hr, advance_completion (s := { s with rstPin := rest }) hb hl,
      runCommand_of_ok (s := { s with rstPin := rest }) hd]
  · have hplaced : decode (s.aboutToRun w).command = .ok i := hd
    rw [withFetchWord_eq, step_completion (s := s.aboutToRun w) rfl rfl rfl, runCommand_of_ok hplaced]

/-- An accepted write of CMD: the step is the start of R260. -/
theorem step_cmd_of_idle {s : State} {w : Word} {rest : List HostReq} (hr : s.rstPin = []) (hb : s.status.busy = false)
    (hq : s.hostQ = .wr 0x00 w :: rest) : step s = .next ((s.withQueue rest).start w) := by
  rw [step_wr_reg (State.hostReady_of_idle hr hb) (r := .cmd) hq,
    State.regWrite_cmd_of_idle (s := s.ticked rest) hb, State.ticked_of_idle hb]

/-- Settles O6. -/
theorem cmdWriteStarts : Obligations.CmdWriteStarts := by
  unfold Obligations.CmdWriteStarts
  intro s w rest hr hb hq
  have hirq : ((s.withQueue rest).start w).irq = false := Bool.and_false _
  exact ⟨_, step_cmd_of_idle hr hb hq, rfl, rfl, rfl, rfl, rfl, hirq, rfl, rfl, rfl, rfl, rfl, rfl, rfl, rfl, ⟨rfl, rfl, rfl, rfl⟩⟩

/-- A write of CMD while the running command still has steps to wait is dropped (R50). -/
theorem step_cmd_of_waiting {s : State} {n : Nat} {w : Word} {rest : List HostReq} (hr : s.rstPin = [])
    (hb : s.status.busy = true) (hl : s.busyLeft = n + 1) (hq : s.hostQ = .wr 0x00 w :: rest) :
    step s = .next (State.dropWrite { s with busyLeft := n, hostQ := rest }) := by
  rw [step_wr_reg (State.hostReady_of_waiting hr hl) (r := .cmd) hq,
    State.regWrite_cmd_of_busy (s := s.ticked rest) hb, State.ticked_of_waiting hb hl]

/-- Settles O17: the second write is dropped at any step of waiting; the completion step leaves it pending at an idle block, which
accepts it. -/
theorem commandIssueHazard : Obligations.CommandIssueHazard := by
  unfold Obligations.CommandIssueHazard
  intro s a b rest hr hb hq
  refine ⟨_, step_cmd_of_idle hr hb hq, rfl, rfl, fun n => ?_, fun u hu => ?_⟩
  · exact ⟨_, step_cmd_of_waiting hr rfl rfl rfl, rfl, rfl, rfl, rfl, rfl⟩
  · rw [step_completion (s := { (s.withQueue (.wr 0x00 b :: rest)).start a with busyLeft := 0 }) hr rfl rfl] at hu
    obtain ⟨i, hend⟩ := runCommand_commandEnd hu
    have hpending : u.hostQ = .wr 0x00 b :: rest := hend.sameHostSide.hostQ
    have hlow : u.rstPin = [] := hend.sameHostSide.rstPin.trans hr
    obtain ⟨-, hidle⟩ := hend.done
    exact ⟨hidle, hpending, _, step_cmd_of_idle hlow hidle hpending, rfl, rfl, rfl⟩

/-! ### STATUS and the interrupt line -/

theorem toNat_append_eq_mul_add {n m : Nat} (x : BitVec n) (y : BitVec m) : (x ++ y).toNat = 2 ^ m * x.toNat + y.toNat := by
  rw [BitVec.toNat_append, ← Nat.shiftLeft_add_eq_or_of_lt y.isLt, Nat.shiftLeft_eq, Nat.mul_comm]

/-- Bits 7:0 of STATUS, as one field after the other (R25). -/
def Status.flagBits (f : Status) : BitVec (1 + 1 + 1 + 1 + 1 + 1 + 1 + 1) :=
  0#1 ++ BitVec.ofBool f.dropped ++ BitVec.ofBool f.eoi ++ BitVec.ofBool f.short ++ BitVec.ofBool f.trunc ++
    BitVec.ofBool f.err ++ BitVec.ofBool f.done ++ BitVec.ofBool f.busy

/-- STATUS's word with the widths of its parts in its type, which the rules for `++` need. -/
def Status.wordParts (f : Status) : BitVec (16 + 8 + (1 + 1 + 1 + 1 + 1 + 1 + 1 + 1)) := 0#16 ++ f.errcode ++ f.flagBits

theorem Status.word_eq_parts (f : Status) : f.word = f.wordParts := rfl

/-- The places of STATUS's fields in numbers (R25). -/
theorem Status.word_toNat (f : Status) : f.word.toNat =
    (if f.busy then 1 else 0) + (if f.done then 2 else 0) + (if f.err then 4 else 0) + (if f.trunc then 8 else 0) +
    (if f.short then 16 else 0) + (if f.eoi then 32 else 0) + (if f.dropped then 64 else 0) + 256 * f.errcode.toNat := by
  have hbit : ∀ (b : Bool) (k : Nat), (if b then k else 0) = k * b.toNat := by
    intro b k
    cases b <;> simp
  rw [Status.word_eq_parts, Status.wordParts, Status.flagBits]
  simp only [toNat_append_eq_mul_add, BitVec.toNat_ofBool, BitVec.toNat_ofNat, hbit]
  omega

theorem Status.getLsbD_flagBits (f : Status) {i : Nat} (hi : i < 8) :
    f.flagBits.getLsbD i = [f.busy, f.done, f.err, f.trunc, f.short, f.eoi, f.dropped].getD i false := by
  unfold Status.flagBits
  interval_cases i <;> simp only [BitVec.getLsbD_append] <;> simp

/-- The places of STATUS's fields as bits (R25). -/
theorem Status.getLsbD_word (f : Status) (i : Nat) : f.word.getLsbD i =
    if i < 8 then [f.busy, f.done, f.err, f.trunc, f.short, f.eoi, f.dropped].getD i false else f.errcode.getLsbD (i - 8) := by
  rw [Status.word_eq_parts, Status.wordParts, BitVec.getLsbD_append]
  split
  · next hi => exact f.getLsbD_flagBits hi
  · rw [BitVec.getLsbD_append]
    split
    · rfl
    · next hi => simp [BitVec.getLsbD_of_ge f.errcode _ (Nat.le_of_not_lt hi)]

/-- The bits a write of STATUS can clear are the flags' (R25). -/
theorem getLsbD_clearable_of_le {i : Nat} (hi : 8 ≤ i) : (0x7E : Word).getLsbD i = false := by
  have hlt : 126 < 2 ^ i :=
    calc 126 < 2 ^ 8 := by decide
      _ ≤ 2 ^ i := Nat.pow_le_pow_right (by decide) hi
  exact Nat.testBit_lt_two_pow hlt

/-- A write of STATUS clears the bits 6:1 written as 1 (R25, R27, R28). -/
theorem Status.word_writeOneClear (f : Status) (v : Word) : (f.writeOneClear v).word = f.word &&& ~~~(v &&& 0x7E) := by
  apply BitVec.eq_of_getLsbD_eq
  intro i hi
  rw [BitVec.getLsbD_and, BitVec.getLsbD_not, BitVec.getLsbD_and, Status.getLsbD_word, Status.getLsbD_word]
  by_cases h8 : i < 8
  · interval_cases i <;> simp [Status.writeOneClear]
  · rw [getLsbD_clearable_of_le (Nat.le_of_not_lt h8), if_neg h8, if_neg h8, decide_eq_true hi]
    simp

theorem getLsbD_one_eq_false_iff (v : Word) : v.getLsbD 1 = false ↔ v.toNat / 2 % 2 = 0 := by
  rw [BitVec.getLsbD, Nat.testBit_eq_decide_div_mod_eq]
  simp

/-- Settles O10. -/
theorem statusRegister : Obligations.StatusRegister := by
  unfold Obligations.StatusRegister
  refine ⟨Status.word_toNat, fun s v rest hready hq => ?_, fun s v rest hready hq => ?_⟩
  · refine ⟨_, step_wr_reg hready (r := .status) hq, rfl, Status.word_writeOneClear _ v, ?_⟩
    have hirq : ((s.ticked rest).regWrite .status v).irq = (s.irqEn && (s.status.done && !v.getLsbD 1)) := rfl
    rw [hirq, Bool.and_eq_true, Bool.and_eq_true, Bool.not_eq_true', getLsbD_one_eq_false_iff]
  · refine ⟨_, step_wr_reg hready (r := .ctrl) hq, rfl, ?_⟩
    have hirq : ((s.ticked rest).regWrite .ctrl v).irq = (v.getLsbD 0 && s.status.done) := rfl
    rw [hirq, Bool.and_eq_true, getLsbD_zero_eq_decide, decide_eq_true_eq]

/-! ### Accesses to an idle block -/

/-- Settles O11: the second clause is the first, read through the claims' table. -/
theorem idleReadIsExact : Obligations.IdleReadIsExact := by
  unfold Obligations.IdleReadIsExact
  have hread : ∀ (s : State) (r : Reg) (rest : List HostReq), s.hostReady → s.status.busy = false →
      s.hostQ = .rd (offsetOf r) :: rest →
      step s = .next ((s.ticked rest).answer (.reg (offsetOf r) (s.regValue r))) := by
    intro s r rest hready hb hq
    rw [step_rd_reg hready hq, State.portRead_exact (by simp [hb]), State.ticked_regValue]
  refine ⟨hread, fun s off v rest hready hb hmem hq => ?_⟩
  rw [registerMap_eq, List.mem_map] at hmem
  obtain ⟨r, -, hr⟩ := hmem
  cases hr
  rw [hread s r rest hready hb hq, State.ticked_of_idle hb]
  rfl

theorem Reg.readBack_argument {r : Reg} (hr : r ∈ argumentRegs) (old v : Word) :
    r.readBack old v = if 0x38 ≤ offsetOf r then v &&& 0xFFFF else v := by
  fin_cases hr <;> rfl

/-- Settles O12: both parts from the rules of `regWrite`, for a write served by an idle block. -/
theorem writtenRegisterReadsBack : Obligations.WrittenRegisterReadsBack := by
  unfold Obligations.WrittenRegisterReadsBack
  refine ⟨fun s r v rest hready hb hq hc hs => ?_, fun s v rest hready hb => ⟨fun off a hmem hq => ?_, fun hq => ?_, fun hq => ?_⟩⟩
  · have hidle : r = .crcState → (s.ticked rest).status.busy = false := fun _ => hb
    refine ⟨_, step_wr_reg hready hq, (State.regWrite_sameRams _ r v).mem, State.regWrite_status_same hc hs hidle v, ?_,
      fun q hne hcrc => ?_⟩
    · rw [State.regValue_regWrite_self hc hs hidle, State.ticked_regValue]
      cases r <;> rfl
    · rw [State.regValue_regWrite_of_ne hc hs hidle v hne hcrc, State.ticked_regValue]
  · rw [argumentWrites_eq, List.mem_map] at hmem
    obtain ⟨r, hr, he⟩ := hmem
    cases he
    rw [step_wr_reg hready hq, State.ticked_of_idle hb, State.regWrite_argument hr]
    fin_cases hr <;> rfl
  · rw [step_wr_reg hready (r := .ctrl) hq, State.ticked_of_idle hb, State.regWrite, getLsbD_zero_eq_decide]
    rfl
  · rw [step_wr_reg hready (r := .crcState) hq, State.regWrite_crcState_of_idle (s := s.ticked rest) hb, State.ticked_of_idle hb]
    rfl

/-- Settles O14. -/
theorem unmappedOffsetsAreEmpty : Obligations.UnmappedOffsetsAreEmpty := by
  unfold Obligations.UnmappedOffsetsAreEmpty
  intro s off v rest hready halign hlow hhigh
  have hok := portOffsetOk_of halign hhigh
  exact ⟨fun hq => by rw [step_rd hready hq hok, State.portRead_above _ hlow],
    fun hq => by rw [step_wr hready hq hok, State.portWrite_above _ v hlow]⟩

/-! ### Accesses while BUSY -/

/-- Of the flags a host can clear, a running command has none but DROPPED. -/
theorem State.StatusOk.writeOneClear_busy {s : State} (h : s.StatusOk) (hb : s.status.busy = true) (v : Word) :
    s.status.writeOneClear v = { s.status with dropped := s.status.dropped && !v.getLsbD 6 } := by
  obtain ⟨hdone, herr, htrunc, hshort, heoi, -⟩ := h.busyClear hb
  simp [Status.writeOneClear, hdone, herr, htrunc, hshort, heoi]

/-- Settles O15: each row of R50 is one case of `regWrite`. -/
theorem writesWhileBusy : Obligations.WritesWhileBusy := by
  unfold Obligations.WritesWhileBusy
  intro s v n rest hok hr hb hl
  have hready := State.hostReady_of_waiting hr hl
  have hticked := State.ticked_of_waiting hb hl rest
  refine ⟨fun off hoff hq => ?_, fun hq => ?_, fun hq => ?_, fun r hlow hhigh hq => ?_, fun off hoff hq => ?_⟩
  · obtain rfl | rfl := hoff
    · exact step_cmd_of_waiting hr hb hl hq
    · rw [step_wr_reg hready (r := .crcState) hq, State.regWrite_crcState_of_busy (s := s.ticked rest) hb, hticked]
      rfl
  · rw [step_wr_reg hready (r := .status) hq, hticked, ← hok.writeOneClear_busy hb]
    rfl
  · rw [step_wr_reg hready (r := .ctrl) hq, hticked]
    rfl
  · have harg : r ∈ argumentRegs := (mem_argumentRegs_iff r).2 ⟨hlow, hhigh⟩
    obtain ⟨hc, hs, hcrc⟩ := argumentRegs_ne harg
    have hidle : r = .crcState → (s.ticked rest).status.busy = false := fun h => absurd h hcrc
    refine ⟨_, step_wr_reg hready hq, ?_, ?_, fun q hne => ?_⟩
    · rw [hticked]
      exact State.regWrite_argument harg _ v
    · rw [State.regValue_regWrite_self hc hs hidle, Reg.readBack_argument harg]
    · rw [State.regValue_regWrite_of_ne hc hs hidle v hne fun _ => hcrc, State.ticked_regValue]
  · obtain rfl | rfl | rfl | ⟨habove, hle, halign⟩ := hoff
    · rw [step_wr_reg hready (r := .crcResult) hq, hticked]
      rfl
    · rw [step_wr_reg hready (r := .outCount) hq, hticked]
      rfl
    · rw [step_wr_reg hready (r := .errInfo) hq, hticked]
      rfl
    · rw [step_wr hready hq (portOffsetOk_of halign hle), State.portWrite_above _ v habove, hticked]

/-- Settles O16. -/
theorem readsWhileBusy : Obligations.ReadsWhileBusy := by
  unfold Obligations.ReadsWhileBusy
  intro s r n rest hr hb hl hq
  have hstep := step_rd_reg (State.hostReady_of_waiting hr hl) hq
  refine ⟨fun hopen => ?_, fun h1 h2 h3 h4 => ?_⟩
  · have hopen' := (openWhileBusy_iff r).2 hopen
    rw [hstep, State.portRead_open (by simp [hb, hopen']), State.ticked_of_waiting hb hl]
    rfl
  · have hexact : openWhileBusy r = false := by
      rw [← Bool.not_eq_true, openWhileBusy_iff]
      tauto
    rw [hstep, State.portRead_exact (by simp [hexact]), State.ticked_regValue, State.ticked_of_waiting hb hl]
    rfl

end Sys2Proof.Machine
end

section
/-! SUPPORT. The LZW decoder's quantities stay within the registers of R46 and inside SRC and DST: the loop's invariant, kept by
each part of a turn. -/

namespace Sys2Proof.Machine

/-- The invariant of the loop of R121 in numbers: `init` gives it and every turn keeps it. The bit buffer holds `bitcnt` bits. -/
structure Lzw.Fits (src dst : Region) (m : Nat) (z : Lzw) : Prop where
  minCode   : z.minCode = m
  clearCode : z.clearCode = 2 ^ m
  eoiCode   : z.eoiCode = 2 ^ m + 1
  eoi_lt    : z.eoiCode < z.nextCode
  next_le   : z.nextCode ≤ 4096
  size_ge   : m + 1 ≤ z.codeSize
  size_le   : z.codeSize ≤ 12
  bitcnt_le : z.bitcnt ≤ 19
  bitbuf_lt : z.bitbuf < 2 ^ z.bitcnt
  subRem_le : z.subRem ≤ 255
  inPos_le  : z.inPos ≤ src.len
  outPos_le : z.outPos ≤ dst.len
  prev_lt   : ∀ c, z.prevCode = some c → c < 4096 ∧ c < z.nextCode

/-- 258 codes are in use at most when a table is new (R124). -/
theorem newTable_le {m : Nat} (h : m ≤ 8) : 2 ^ m + 2 ≤ 4096 := by
  have : 2 ^ m ≤ 2 ^ 8 := Nat.pow_le_pow_right (by decide) h
  omega

theorem Lzw.init_fits {src : Region} (dst : Region) {m : Nat} (hm : m ≤ 8) (hlen : 1 ≤ src.len) :
    (Lzw.init m).Fits src dst m where
  minCode := rfl
  clearCode := rfl
  eoiCode := rfl
  eoi_lt := Nat.lt_succ_self _
  next_le := newTable_le hm
  size_ge := le_rfl
  size_le := show m + 1 ≤ 12 by omega
  bitcnt_le := Nat.zero_le _
  bitbuf_lt := Nat.one_pos
  subRem_le := Nat.zero_le _
  inPos_le := hlen
  outPos_le := Nat.zero_le _
  prev_lt := fun c hc => by cases hc

section
variable {src dst : Region} {m : Nat} {z : Lzw} (h : z.Fits src dst m)
include h

/-- Where the decoder stands in SRC does not matter to the rest. -/
theorem Lzw.Fits.withPosition {p r : Nat} (hp : p ≤ src.len) (hr : r ≤ 255) (e : Bool) :
    { z with inPos := p, subRem := r, streamEnd := e }.Fits src dst m :=
  { h with inPos_le := hp, subRem_le := hr }

/-- A buffer of at most 19 bits that holds what its count says. -/
theorem Lzw.Fits.withBits {buf cnt : Nat} (hcnt : cnt ≤ 19) (hbuf : buf < 2 ^ cnt) :
    { z with bitbuf := buf, bitcnt := cnt }.Fits src dst m :=
  { h with bitcnt_le := hcnt, bitbuf_lt := hbuf }

end

/-! ### Reading SRC (R123, R125) -/

theorem srcByte_ok {mem : Memory} {src : Region} {j : Nat} {b : Byte} (h : srcByte mem src j = .ok b) : j < src.len := by
  unfold srcByte at h
  split at h
  · assumption
  · cases h

/-- What a read of a data byte moves: the position in SRC, within SRC, and nothing else of the decoder. -/
theorem nextDataByte_moves {mem : Memory} {src : Region} {z z' : Lzw} {b : Option Byte} (hpos : z.inPos ≤ src.len)
    (hrem : z.subRem ≤ 255) (h : nextDataByte mem src z = .ok (b, z')) :
    ∃ p r e, p ≤ src.len ∧ r ≤ 255 ∧ z' = { z with inPos := p, subRem := r, streamEnd := e } := by
  have hdata : ∀ y : Lzw, y.subRem ≤ 255 → lzwDataByte mem src y = .ok (b, z') →
      ∃ p r, p ≤ src.len ∧ r ≤ 255 ∧ z' = { y with inPos := p, subRem := r } := by
    intro y hy hb
    unfold lzwDataByte at hb
    split at hb
    · cases hb
    · next hsrc =>
      cases hb
      exact ⟨_, _, srcByte_ok hsrc, by omega, rfl⟩
  unfold nextDataByte at h
  split at h
  · cases h
    exact ⟨_, _, _, hpos, hrem, rfl⟩
  · split at h
    · split at h
      · cases h
      · next n hn =>
        split at h
        · cases h
          exact ⟨_, _, _, srcByte_ok hn, hrem, rfl⟩
        · have hle : n.toNat ≤ 255 := Nat.le_of_lt_succ n.isLt
          obtain ⟨p, r, hp, hr, he⟩ := hdata _ hle h
          exact ⟨p, r, _, hp, hr, he⟩
    · obtain ⟨p, r, hp, hr, he⟩ := hdata z hrem h
      exact ⟨p, r, _, hp, hr, he⟩

/-! ### The bit buffer (R126) -/

/-- A byte above `n` buffered bits gives `n + 8` bits. -/
theorem bitbuf_append_lt {buf n : Nat} (h : buf < 2 ^ n) (b : Byte) : buf ||| b.toNat <<< n < 2 ^ (n + 8) := by
  rw [Nat.or_comm, ← Nat.shiftLeft_add_eq_or_of_lt h, Nat.shiftLeft_eq, Nat.pow_add]
  have hb : (b.toNat + 1) * 2 ^ n ≤ 2 ^ 8 * 2 ^ n := Nat.mul_le_mul_right _ b.isLt
  rw [Nat.succ_mul] at hb
  omega

/-- A turn of the filling loop adds a byte only below the code size, so 12 + 7 bits are the most. -/
theorem fillBits_fits (mem : Memory) {src dst : Region} {m : Nat} (n : Nat) {z z' : Lzw} (h : z.Fits src dst m)
    (hz : fillBits mem src n z = .ok z') : z'.Fits src dst m := by
  induction n generalizing z with
  | zero => cases hz; exact h
  | succ n ih =>
    unfold fillBits at hz
    split at hz
    · cases hz; exact h
    · next hsmall =>
      split at hz
      · cases hz
      · next z₁ hnext =>
        cases hz
        obtain ⟨p, r, e, hp, hr, rfl⟩ := nextDataByte_moves h.inPos_le h.subRem_le hnext
        exact h.withPosition hp hr e
      · next b z₁ hnext =>
        obtain ⟨p, r, e, hp, hr, rfl⟩ := nextDataByte_moves h.inPos_le h.subRem_le hnext
        have hsize := h.size_le
        have hcnt : z.bitcnt + 8 ≤ 19 := by omega
        exact ih ((h.withPosition hp hr e).withBits hcnt (bitbuf_append_lt h.bitbuf_lt b)) hz

/-- A code has `code_size` bits, so it is below 4096; taking it out leaves the rest of the buffer. -/
theorem nextCodeBits_fits (mem : Memory) {src dst : Region} {m : Nat} {z z' : Lzw} {c : Option Nat} (h : z.Fits src dst m)
    (hz : nextCodeBits mem src z = .ok (c, z')) : z'.Fits src dst m ∧ ∀ code, c = some code → code < 4096 := by
  unfold nextCodeBits at hz
  split at hz
  · cases hz
  · next y hy =>
    have hfit := fillBits_fits mem _ h hy
    split at hz
    · cases hz
      exact ⟨hfit, fun code hc => by cases hc⟩
    · next henough =>
      cases hz
      refine ⟨hfit.withBits (le_trans (Nat.sub_le _ _) hfit.bitcnt_le) ?_, fun code hc => ?_⟩
      · rw [Nat.shiftRight_eq_div_pow]
        refine Nat.div_lt_of_lt_mul ?_
        rw [← Nat.pow_add, Nat.add_sub_cancel' (Nat.le_of_not_lt henough)]
        exact hfit.bitbuf_lt
      · cases hc
        calc y.bitbuf % 2 ^ y.codeSize < 2 ^ y.codeSize := Nat.mod_lt _ (Nat.two_pow_pos _)
          _ ≤ 2 ^ 12 := Nat.pow_le_pow_right (by decide) hfit.size_le

/-! ### One turn of the loop (R127 to R134) -/

theorem Lzw.clear_fits {src dst : Region} {m : Nat} {z : Lzw} (hm : m ≤ 8) (h : z.Fits src dst m) :
    z.clear.Fits src dst m :=
  { h with
    eoi_lt := Nat.lt_succ_self _
    next_le := by
      have := newTable_le hm
      show z.eoiCode + 1 ≤ 4096
      rw [h.eoiCode]
      omega
    size_ge := show m + 1 ≤ z.minCode + 1 by rw [h.minCode]
    size_le := show z.minCode + 1 ≤ 12 by rw [h.minCode]; omega
    prev_lt := fun c hc => by cases hc }

theorem grownSize_bounds (next : Nat) {size : Nat} (h : size ≤ 12) : size ≤ grownSize next size ∧ grownSize next size ≤ 12 := by
  unfold grownSize
  split <;> omega

/-- What `add_entry` does to the quantities: nothing, or one more code and perhaps one more bit (R133). -/
theorem addEntry_cases (table : Ram 20) (z : Lzw) (k : Byte) :
    ((z.prevCode = none ∨ 4096 ≤ z.nextCode) ∧ (addEntry table z k).2 = z) ∨
    (z.nextCode < 4096 ∧
      (addEntry table z k).2 = { z with nextCode := z.nextCode + 1, codeSize := grownSize (z.nextCode + 1) z.codeSize }) := by
  unfold addEntry
  split
  · next hp => exact .inl ⟨.inl hp, rfl⟩
  · split
    · next hlt => exact .inr ⟨hlt, rfl⟩
    · next hge => exact .inl ⟨.inr (Nat.le_of_not_lt hge), rfl⟩

/-- After its entry is added, a valid code below 4096 is a code of the table: one equal to `next_code` has a previous code, so its
entry was added. -/
theorem addEntry_fits (table : Ram 20) (k : Byte) {src dst : Region} {m code : Nat} {z : Lzw} (h : z.Fits src dst m)
    (hcode : code < 4096) (hvalid : z.validCode code = true) :
    { (addEntry table z k).2 with prevCode := some code }.Fits src dst m := by
  have hvalid : code < z.nextCode ∨ (code = z.nextCode ∧ z.prevCode ≠ none) := of_decide_eq_true hvalid
  obtain ⟨hskip, he⟩ | ⟨hlt, he⟩ := addEntry_cases table z k
  · rw [he]
    refine { h with prev_lt := fun c hc => ?_ }
    cases hc
    refine ⟨hcode, ?_⟩
    obtain hlt | ⟨heq, hne⟩ := hvalid
    · exact hlt
    · obtain hnone | hfull := hskip
      · exact absurd hnone hne
      · omega
  · rw [he]
    obtain ⟨hgrow, hmax⟩ := grownSize_bounds (z.nextCode + 1) h.size_le
    exact { h with
      eoi_lt := Nat.lt_succ_of_lt h.eoi_lt
      next_le := hlt
      size_ge := le_trans h.size_ge hgrow
      size_le := hmax
      prev_lt := fun c hc => by
        cases hc
        exact ⟨hcode, show code < z.nextCode + 1 by omega⟩ }

theorem lzwOrdinary_fits {src dst : Region} {m code : Nat} {k : LzwRun} (h : k.z.Fits src dst m) (hcode : code < 4096) :
    (lzwOrdinary dst k code).1.z.Fits src dst m := by
  unfold lzwOrdinary
  split
  · next hvalid =>
    split
    · exact h
    · split
      · exact h
      · next out first _ hroom =>
        exact addEntry_fits _ _ { h with outPos_le := Nat.le_of_not_lt hroom } hcode hvalid
  · exact h

theorem lzwCodeStep_fits {src dst : Region} {m : Nat} {k : LzwRun} (hm : m ≤ 8) (h : k.z.Fits src dst m) :
    (lzwCodeStep src dst k).1.z.Fits src dst m := by
  unfold lzwCodeStep
  split
  · exact h
  · next hnext => exact (nextCodeBits_fits _ h hnext).1
  · next hnext =>
    obtain ⟨hfit, hcode⟩ := nextCodeBits_fits _ h hnext
    split
    · exact Lzw.clear_fits hm hfit
    · split
      · exact { hfit with }
      · exact lzwOrdinary_fits (k := { k with z := _ }) hfit (hcode _ rfl)

theorem lzwLoop_fits {src dst : Region} {m : Nat} (hm : m ≤ 8) (n : Nat) {k : LzwRun} (h : k.z.Fits src dst m) :
    (lzwLoop src dst n k).1.z.Fits src dst m := by
  induction n generalizing k with
  | zero => exact h
  | succ n ih =>
    have hstep := lzwCodeStep_fits hm h
    unfold lzwLoop
    split
    · next k' e hk => rwa [hk] at hstep
    · next k' hk => rw [hk] at hstep; exact ih hstep

/-- Settles O43: the invariant after any number of turns; `bitcnt` bits fit the 19 of the buffer. -/
theorem lzwRegistersFit : Obligations.LzwRegistersFit := by
  unfold Obligations.LzwRegistersFit
  intro src dst m n table mem _ hm hlen z
  have h : z.Fits src dst m := lzwLoop_fits hm n (k := ⟨Lzw.init m, table, mem⟩) (Lzw.init_fits dst hm hlen)
  have hbuf : z.bitbuf < 2 ^ 19 := lt_of_lt_of_le h.bitbuf_lt (Nat.pow_le_pow_right (by decide) h.bitcnt_le)
  exact ⟨h.minCode, h.clearCode, h.eoiCode, h.eoi_lt, h.next_le, h.size_ge, h.size_le, h.bitcnt_le, hbuf, h.subRem_le,
    h.inPos_le, h.outPos_le, h.prev_lt⟩

end Sys2Proof.Machine
end

section
/-! SUPPORT. LZW_DECODE always completes (R130, R138): every chase of the code table ends, since an entry continues an older ordinary
code, and every turn of the loop takes bits that the rest of SRC must supply. -/

namespace Sys2Proof.Machine

/-! ### The chase of a code ends (R130) -/

/-- An ordinary code: neither the clear code nor the end code (R129). -/
def Lzw.Ordinary (z : Lzw) (c : Nat) : Prop := c < z.clearCode ∨ z.eoiCode < c

/-- The code that a code's entry continues: bits 19:8 of the entry (R43). -/
def entryPrefix (table : Ram 20) (c : Nat) : Nat := (tableEntry table c).toNat / 2 ^ 8

/-- The invariant of the code table: the previous code is ordinary, and every entry in use continues an older ordinary code. Entries
outside the codes in use may hold anything. -/
structure Lzw.Chained (z : Lzw) (table : Ram 20) : Prop where
  prev  : ∀ c, z.prevCode = some c → z.Ordinary c
  entry : ∀ c, z.eoiCode < c → c < z.nextCode → entryPrefix table c < c ∧ z.Ordinary (entryPrefix table c)

/-- A table with no entry in use and no previous code, after `init` and `do_clear` (R124, R127). -/
theorem Lzw.chained_of_empty {z : Lzw} (table : Ram 20) (hp : z.prevCode = none) (hn : z.nextCode = z.eoiCode + 1) :
    z.Chained table where
  prev c hc := by rw [hp] at hc; cases hc
  entry c hlow hhigh := by omega

/-- A chase of an ordinary code in use takes no more turns than its number allows. -/
theorem expandCode_isSome {table : Ram 20} {z : Lzw} (h : z.Chained table) (n : Nat) {c : Nat} (hc : z.Ordinary c)
    (hn : c < n) (hused : c < z.nextCode) :
    ∃ out, expandCode table z.clearCode n c = some out := by
  induction n generalizing c with
  | zero => omega
  | succ n ih =>
    by_cases hroot : c < z.clearCode
    · exact ⟨_, by rw [expandCode, if_pos hroot]⟩
    · have hlow : z.eoiCode < c := hc.resolve_left hroot
      obtain ⟨holder, hord⟩ := h.entry c hlow hused
      obtain ⟨front, hfront⟩ := ih hord (by omega) (by omega)
      have hfront' : expandCode table z.clearCode n ((tableEntry table c).toNat / 2 ^ 8) = some front := hfront
      exact ⟨_, by rw [expandCode, if_neg hroot, hfront']⟩

/-- A valid ordinary code has an output (R129, R131): it is in use, or its previous code is. -/
theorem outputOf_isSome {src dst : Region} {m code : Nat} {table : Ram 20} {z : Lzw} (h : z.Fits src dst m)
    (hch : z.Chained table) (hvalid : z.validCode code = true) (hord : z.Ordinary code) :
    ∃ o, outputOf table z code = some o := by
  have hchase : ∀ c, z.Ordinary c → c < z.nextCode → ∃ out, expandCode table z.clearCode chaseBound c = some out :=
    fun c hc hused => expandCode_isSome hch chaseBound hc (lt_of_lt_of_le hused h.next_le) hused
  unfold outputOf
  by_cases hused : code < z.nextCode
  · obtain ⟨out, hout⟩ := hchase code hord hused
    exact ⟨_, by rw [if_pos hused, hout]⟩
  · have hvalid' : code < z.nextCode ∨ (code = z.nextCode ∧ z.prevCode ≠ none) := of_decide_eq_true hvalid
    obtain ⟨-, hne⟩ := hvalid'.resolve_left hused
    obtain ⟨prev, hprev⟩ := Option.ne_none_iff_exists'.1 hne
    obtain ⟨-, hlt⟩ := h.prev_lt prev hprev
    obtain ⟨out, hout⟩ := hchase prev (hch.prev prev hprev) hlt
    exact ⟨_, by simp only [if_neg hused, hprev, hout]; rfl⟩

theorem tableEntry_put_self (table : Ram 20) (c : Nat) (v : BitVec 20) : tableEntry (Ram.put table c v) c = v := by
  rw [tableEntry, Ram.lookup_put_self, Option.getD_some]

theorem tableEntry_put_ne (table : Ram 20) {c d : Nat} (v : BitVec 20) (h : d ≠ c) :
    tableEntry (Ram.put table c v) d = tableEntry table d := by
  rw [tableEntry, Ram.lookup_put_ne table c d v h, tableEntry]

/-- The packed entry of R133 continues the previous code. -/
theorem entryPrefix_put_self (table : Ram 20) (c : Nat) {prev : Nat} (k : Byte) (h : prev < 4096) :
    entryPrefix (Ram.put table c (BitVec.ofNat 20 (prev * 2 ^ 8 + k.toNat))) c = prev := by
  rw [entryPrefix, tableEntry_put_self, BitVec.toNat_ofNat]
  have := k.isLt
  omega

/-- A new entry continues the previous code, which is ordinary and older; the other entries stay. -/
theorem addEntry_chained {src dst : Region} {m : Nat} {table : Ram 20} {z : Lzw} (k : Byte) {code : Nat}
    (h : z.Fits src dst m) (hch : z.Chained table) (hord : z.Ordinary code) :
    { (addEntry table z k).2 with prevCode := some code }.Chained (addEntry table z k).1 := by
  have hprev : ∀ y : Lzw, y.clearCode = z.clearCode → y.eoiCode = z.eoiCode → ∀ c, some code = some c → y.Ordinary c := by
    rintro y hc he _ ⟨⟩
    rwa [Lzw.Ordinary, hc, he]
  unfold addEntry
  split
  · exact ⟨hprev _ rfl rfl, hch.entry⟩
  · next prev hp =>
    split
    · obtain ⟨hbound, holder⟩ := h.prev_lt prev hp
      refine ⟨hprev _ rfl rfl, fun c hlow hhigh => ?_⟩
      obtain rfl | hne := eq_or_ne c z.nextCode
      · rw [entryPrefix_put_self table _ k hbound]
        exact ⟨holder, hch.prev prev hp⟩
      · have hhigh : c < z.nextCode + 1 := hhigh
        rw [entryPrefix, tableEntry_put_ne table _ hne]
        exact hch.entry c hlow (by omega)
    · exact ⟨hprev _ rfl rfl, hch.entry⟩

/-! ### Every turn takes bits (R138) -/

/-- The bits a run may still take: those in the buffer, and 8 for each byte of SRC not yet read. -/
def Lzw.bitsLeft (z : Lzw) (src : Region) : Nat := 8 * (src.len - z.inPos) + z.bitcnt

/-- What the reading of a code may change of the decoder: its position in SRC and its bit buffer. -/
def Lzw.InputMoved (z z' : Lzw) : Prop :=
  ∃ buf cnt p r e, z' = { z with bitbuf := buf, bitcnt := cnt, inPos := p, subRem := r, streamEnd := e }

theorem Lzw.InputMoved.trans {x y z : Lzw} (h : x.InputMoved y) (h' : y.InputMoved z) : x.InputMoved z := by
  obtain ⟨_, _, _, _, _, rfl⟩ := h
  obtain ⟨buf, cnt, p, r, e, rfl⟩ := h'
  exact ⟨buf, cnt, p, r, e, rfl⟩

theorem Lzw.InputMoved.chained {z z' : Lzw} {table : Ram 20} (h : z.InputMoved z') (hch : z.Chained table) :
    z'.Chained table := by
  obtain ⟨_, _, _, _, _, rfl⟩ := h
  exact ⟨hch.prev, hch.entry⟩

theorem lzwDataByte_ok {mem : Memory} {src : Region} {z z' : Lzw} {b : Option Byte}
    (h : lzwDataByte mem src z = .ok (b, z')) :
    z.inPos < src.len ∧ z' = { z with inPos := z.inPos + 1, subRem := z.subRem - 1 } := by
  unfold lzwDataByte at h
  split at h
  · cases h
  · next hb => cases h; exact ⟨srcByte_ok hb, rfl⟩

/-- A data byte moves the decoder past at least the byte it returns; the end of the stream moves it no way back. -/
theorem nextDataByte_ok {mem : Memory} {src : Region} {z z' : Lzw} {b : Option Byte}
    (h : nextDataByte mem src z = .ok (b, z')) :
    z.InputMoved z' ∧ z'.bitcnt = z.bitcnt ∧ z.inPos ≤ z'.inPos ∧ (b ≠ none → z.inPos < z'.inPos ∧ z.inPos < src.len) := by
  unfold nextDataByte at h
  split at h
  · cases h
    exact ⟨⟨_, _, _, _, _, rfl⟩, rfl, le_rfl, fun hb => absurd rfl hb⟩
  · split at h
    · split at h
      · cases h
      · next n hn =>
        split at h
        · cases h
          exact ⟨⟨_, _, _, _, _, rfl⟩, rfl, Nat.le_succ _, fun hb => absurd rfl hb⟩
        · obtain ⟨-, rfl⟩ := lzwDataByte_ok h
          have hmove : z.inPos < z.inPos + 1 + 1 := by omega
          exact ⟨⟨_, _, _, _, _, rfl⟩, rfl, hmove.le, fun _ => ⟨hmove, srcByte_ok hn⟩⟩
    · obtain ⟨hlt, rfl⟩ := lzwDataByte_ok h
      exact ⟨⟨_, _, _, _, _, rfl⟩, rfl, Nat.le_succ _, fun _ => ⟨Nat.lt_succ_self _, hlt⟩⟩

/-- Filling the buffer turns unread bits into buffered ones. -/
theorem fillBits_bitsLeft {mem : Memory} {src : Region} (n : Nat) {z z' : Lzw} (h : fillBits mem src n z = .ok z') :
    z.InputMoved z' ∧ z'.bitsLeft src ≤ z.bitsLeft src := by
  induction n generalizing z with
  | zero => cases h; exact ⟨⟨_, _, _, _, _, rfl⟩, le_rfl⟩
  | succ n ih =>
    unfold fillBits at h
    split at h
    · cases h; exact ⟨⟨_, _, _, _, _, rfl⟩, le_rfl⟩
    · split at h
      · cases h
      · next hnext =>
        cases h
        obtain ⟨hmoved, hcnt, hpos, -⟩ := nextDataByte_ok hnext
        exact ⟨hmoved, by unfold Lzw.bitsLeft; omega⟩
      · next b y hnext =>
        obtain ⟨hmoved, hcnt, -, hbyte⟩ := nextDataByte_ok hnext
        obtain ⟨hpos, hlen⟩ := hbyte (Option.some_ne_none b)
        obtain ⟨hmoved', hleft⟩ := ih h
        refine ⟨(hmoved.trans ⟨_, _, _, _, _, rfl⟩).trans hmoved', hleft.trans ?_⟩
        simp only [Lzw.bitsLeft]
        omega

/-- A code takes `code_size` of the bits left. -/
theorem nextCodeBits_bitsLeft {mem : Memory} {src : Region} {z z' : Lzw} {c : Option Nat}
    (h : nextCodeBits mem src z = .ok (c, z')) :
    z.InputMoved z' ∧ (c ≠ none → z'.bitsLeft src + z.codeSize ≤ z.bitsLeft src) := by
  unfold nextCodeBits at h
  split at h
  · cases h
  · next y hy =>
    obtain ⟨hmoved, hleft⟩ := fillBits_bitsLeft _ hy
    split at h
    · cases h
      exact ⟨hmoved, fun hc => absurd rfl hc⟩
    · next henough =>
      cases h
      refine ⟨hmoved.trans ⟨_, _, _, _, _, rfl⟩, fun _ => ?_⟩
      obtain ⟨_, _, _, _, _, rfl⟩ := hmoved
      simp only [Lzw.bitsLeft] at hleft henough ⊢
      omega

/-! ### The loop ends within its bound (R138) -/

/-- One ordinary code: it has an output, and a turn that goes on keeps the chains and takes no bit back. -/
theorem lzwOrdinary_progress {src dst : Region} {m code : Nat} {k : LzwRun} (h : k.z.Fits src dst m)
    (hch : k.z.Chained k.table) (hord : k.z.Ordinary code) :
    (lzwOrdinary dst k code).2 ≠ some .unbounded ∧
    ((lzwOrdinary dst k code).2 = none → (lzwOrdinary dst k code).1.z.Chained (lzwOrdinary dst k code).1.table ∧
      (lzwOrdinary dst k code).1.z.bitsLeft src = k.z.bitsLeft src) := by
  unfold lzwOrdinary
  split
  · next hvalid =>
    obtain ⟨⟨out, first⟩, hout⟩ := outputOf_isSome h hch hvalid hord
    simp only [hout]
    split
    · exact ⟨by simp, fun he => by cases he⟩
    · next hroom =>
      have hch' : { k.z with outPos := k.z.outPos + out.length }.Chained k.table := ⟨hch.prev, hch.entry⟩
      refine ⟨by simp, fun _ => ⟨addEntry_chained first { h with outPos_le := Nat.le_of_not_lt hroom } hch' hord, ?_⟩⟩
      obtain ⟨-, he⟩ | ⟨-, he⟩ := addEntry_cases k.table { k.z with outPos := k.z.outPos + out.length } first
      all_goals rw [he]; rfl
  · exact ⟨by simp, fun he => by cases he⟩

/-- One turn of the loop: it does not outrun the chase, and if it goes on it has taken bits. -/
theorem lzwCodeStep_progress {src dst : Region} {m : Nat} {k : LzwRun} (h : k.z.Fits src dst m) (hch : k.z.Chained k.table) :
    (lzwCodeStep src dst k).2 ≠ some .unbounded ∧
    ((lzwCodeStep src dst k).2 = none → (lzwCodeStep src dst k).1.z.Chained (lzwCodeStep src dst k).1.table ∧
      (lzwCodeStep src dst k).1.z.bitsLeft src < k.z.bitsLeft src) := by
  unfold lzwCodeStep
  split
  · exact ⟨by simp, fun he => by cases he⟩
  · exact ⟨by simp, fun he => by cases he⟩
  · next code z hnext =>
    obtain ⟨hmoved, hleft⟩ := nextCodeBits_bitsLeft hnext
    obtain ⟨hfit, -⟩ := nextCodeBits_fits _ h hnext
    have hsize := h.size_ge
    have htaken : z.bitsLeft src < k.z.bitsLeft src := by
      have := hleft (Option.some_ne_none code)
      omega
    split
    · exact ⟨by simp, fun _ => ⟨Lzw.chained_of_empty _ rfl rfl, htaken⟩⟩
    · next hclear =>
      split
      · exact ⟨by simp, fun he => by cases he⟩
      · next heoi =>
        have hord : z.Ordinary code := by
          have hclearCode := hfit.clearCode
          have heoiCode := hfit.eoiCode
          unfold Lzw.Ordinary
          omega
        obtain ⟨hne, hgo⟩ := lzwOrdinary_progress (k := { k with z := z }) hfit (hmoved.chained hch) hord
        refine ⟨hne, fun he => ?_⟩
        obtain ⟨hch', hsame⟩ := hgo he
        exact ⟨hch', hsame ▸ htaken⟩

/-- With more turns than bits left the loop ends by itself. -/
theorem lzwLoop_ne_unbounded {src dst : Region} {m : Nat} (hm : m ≤ 8) (n : Nat) {k : LzwRun} (h : k.z.Fits src dst m)
    (hch : k.z.Chained k.table) (hn : k.z.bitsLeft src < n) : (lzwLoop src dst n k).2 ≠ .unbounded := by
  induction n generalizing k with
  | zero => omega
  | succ n ih =>
    have hfit := lzwCodeStep_fits hm h
    obtain ⟨hne, hgo⟩ := lzwCodeStep_progress h hch
    unfold lzwLoop
    split
    · next k' e hk =>
      rw [hk] at hne
      exact fun he => hne (congrArg some he)
    · next k' hk =>
      rw [hk] at hfit hgo
      obtain ⟨hch', hless⟩ := hgo rfl
      exact ih hfit hch' (show k'.z.bitsLeft src < n from Nat.lt_of_lt_of_le hless (Nat.le_of_lt_succ hn))

theorem lzwComplete_isNext (s : State) (k : LzwRun) {e : LzwEnd} (h : e ≠ .unbounded) : ∃ t, lzwComplete s k e = .next t := by
  cases e with
  | stream | overrun | error => exact ⟨_, rfl⟩
  | unbounded => exact absurd rfl h

theorem lzwDecodeFrom_isNext (s : State) {m : Nat} (hm : m ≤ 8) (hlen : 1 ≤ s.latch.src.len) :
    ∃ t, lzwDecodeFrom s m = .next t := by
  refine lzwComplete_isNext s _ (lzwLoop_ne_unbounded hm _ (Lzw.init_fits s.latch.dst hm hlen) ?_ ?_)
  · exact Lzw.chained_of_empty _ rfl rfl
  · simp only [Lzw.bitsLeft, Lzw.init, lzwBound]
    omega

theorem execLzwDecode_isNext (s : State) : ∃ t, execLzwDecode s = .next t := by
  unfold execLzwDecode
  split
  · exact ⟨_, rfl⟩
  · unfold lzwRun
    split
    · exact ⟨_, rfl⟩
    · next b hb =>
      split
      · exact ⟨_, rfl⟩
      · next hm => exact lzwDecodeFrom_isNext s (by omega) (Nat.one_le_of_lt (srcByte_ok hb))

end Sys2Proof.Machine
end

section
/-! SUPPORT. A host that keeps the interface is always served (R65, R68): every command answers a next state, every legal transaction
too, and the transactions still to come stay legal. -/

namespace Sys2Proof.Machine

/-! ### Progress -/

/-- No command stops the machine: the errors of R263 complete it, and LZW_DECODE ends within its bound. -/
theorem exec_isNext (i : Instr) (s : State) : ∃ t, exec i s = .next t := by
  cases i with
  | nop | crcInit | crcUpdate => exact ⟨_, rfl⟩
  | lzwDecode => exact execLzwDecode_isNext s
  | unfilter => simp only [exec, execUnfilter]; split <;> exact ⟨_, rfl⟩
  | filter ftype =>
    simp only [exec, execFilter]
    split
    · exact ⟨_, rfl⟩
    · split <;> exact ⟨_, rfl⟩
  | expand => simp only [exec, execExpand]; split <;> exact ⟨_, rfl⟩
  | pack => simp only [exec, execPack]; split <;> exact ⟨_, rfl⟩
  | adam7Deinterlace => simp only [exec, execAdam7]; split <;> exact ⟨_, rfl⟩

theorem runCommand_isNext (s : State) : ∃ t, runCommand s = .next t := by
  unfold runCommand
  split
  · exact exec_isNext _ s
  · exact ⟨_, rfl⟩

theorem State.serve_isNext (s : State) {q : HostReq} (rest : List HostReq) (h : q.legal s.params) :
    ∃ t, s.serve q rest = .next t := by
  cases q with
  | wr off v | rd off =>
    obtain ⟨halign, hle⟩ := h
    exact ⟨_, if_pos (portOffsetOk_of halign hle)⟩
  | portOther off bytes => exact absurd h id
  | memw a b | memr a => exact ⟨_, if_pos h⟩
  | wait => exact ⟨_, rfl⟩

theorem State.hostTurn_isNext {s : State} (h : s.hostLegal) : ∃ t, s.hostTurn = .next t := by
  unfold State.hostTurn
  split
  · exact ⟨_, rfl⟩
  · next q rest hq =>
    split
    · exact ⟨_, rfl⟩
    · exact s.serve_isNext rest (h q (hq ▸ List.mem_cons_self))

theorem advance_isNext {s : State} (h : s.hostLegal) : ∃ t, advance s = .next t := by
  unfold advance
  split
  · split
    · exact runCommand_isNext s
    · next n _ => exact State.hostTurn_isNext (s := { s with busyLeft := n }) h
  · exact State.hostTurn_isNext h

/-! ### The transactions still to come -/

theorem State.portWrite_hostQ (s : State) (off : Nat) (v : Word) : (s.portWrite off v).hostQ = s.hostQ := by
  obtain ⟨-, h⟩ | ⟨r, -, h⟩ := s.portWrite_cases off v
  · rw [h]
  · rw [h]
    cases r with
    | cmd | crcState => simp only [State.regWrite]; split <;> rfl
    | _ => rfl

theorem State.portRead_hostQ (s : State) (off : Nat) : (s.portRead off).hostQ = s.hostQ := by
  obtain ⟨-, h⟩ | ⟨r, -, ⟨-, h⟩ | ⟨-, h⟩⟩ := s.portRead_cases off <;> rw [h] <;> rfl

/-- A served transaction leaves those after it, or, for WAIT at a BUSY block, comes again. -/
theorem State.serve_hostQ {s t : State} {q : HostReq} {rest : List HostReq} (h : s.serve q rest = .next t) :
    t.hostQ = rest ∨ t.hostQ = s.hostQ := by
  obtain ⟨off, v, -, -, rfl⟩ | ⟨off, -, -, rfl⟩ | ⟨a, b, -, -, rfl⟩ | ⟨a, -, -, rfl⟩ | ⟨-, rfl⟩ := s.serve_cases t q rest h
  · exact .inl (State.portWrite_hostQ _ off v)
  · exact .inl (State.portRead_hostQ _ off)
  · exact .inl rfl
  · exact .inl rfl
  · rw [State.portRead_hostQ]
    split
    · exact .inr rfl
    · exact .inl rfl

theorem State.hostTurn_hostQ_subset {s t : State} (h : s.hostTurn = .next t) : t.hostQ ⊆ s.hostQ := by
  obtain ⟨-, rfl⟩ | ⟨q, rest, hq, ⟨-, rfl⟩ | ⟨-, hserve⟩⟩ := s.hostTurn_cases t h
  · exact List.Subset.refl _
  · exact List.Subset.refl _
  · obtain hrest | hsame := State.serve_hostQ hserve
    · rw [hrest, hq]
      exact List.subset_cons_self q rest
    · rw [hsame]
      exact List.Subset.refl _

theorem advance_hostQ_subset {s t : State} (h : advance s = .next t) : t.hostQ ⊆ s.hostQ := by
  obtain ⟨-, -, hr⟩ | ⟨n, -, -, ht⟩ | ⟨-, ht⟩ := advance_cases s t h
  · obtain ⟨i, hend⟩ := runCommand_commandEnd hr
    exact hend.sameHostSide.hostQ ▸ List.Subset.refl _
  · exact State.hostTurn_hostQ_subset (s := { s with busyLeft := n }) ht
  · exact State.hostTurn_hostQ_subset ht

theorem step_hostQ_subset {s t : State} (h : step s = .next t) : t.hostQ ⊆ s.hostQ := by
  obtain ⟨rest, -, rfl⟩ | ⟨-, ha⟩ | ⟨rest, -, ha⟩ := step_cases s t h
  · exact List.Subset.refl _
  · exact advance_hostQ_subset ha
  · exact advance_hostQ_subset (s := { s with rstPin := rest }) ha

theorem step_isNext {s : State} (h : s.hostLegal) : ∃ t, step s = .next t := by
  unfold step stepOnce
  split
  · exact advance_isNext h
  · exact ⟨_, rfl⟩
  · next rest _ => exact advance_isNext (s := { s with rstPin := rest }) h

/-- Settles O9: the step answers a next state, with the same MEM_BYTES and no new transaction. -/
theorem legalHostNeverStops : Obligations.LegalHostNeverStops := by
  unfold Obligations.LegalHostNeverStops
  intro s hs
  obtain ⟨t, ht⟩ := step_isNext hs
  obtain ⟨hparams, -⟩ := stepKeepsMemoriesInBounds s t ht
  refine ⟨t, ht, fun q hq => ?_⟩
  rw [hparams]
  exact hs q (step_hostQ_subset ht hq)

end Sys2Proof.Machine
end

section
/-! SUPPORT. Where a command writes MEM: only in its DST region (R61, R63), whatever the start checks left it. With it the frame of
MEM, and the canonical form of every memory as an invariant of every step. -/

namespace Sys2Proof.Machine

/-! ### Writes inside a region -/

/-- `m'` is `m` after writes at addresses `base .. base + n - 1` only. -/
inductive Memory.Written (base n : Nat) (m : Memory) : Memory → Prop
  | refl : Memory.Written base n m m
  | write {m' : Memory} (j : Nat) (v : Byte) (hj : j < n) (h : Memory.Written base n m m') :
      Memory.Written base n m (memWrite m' (base + j) v)

section
variable {base n : Nat} {m m' : Memory} (h : Memory.Written base n m m')
include h

/-- A write at an address of the region, however it is computed. -/
theorem Memory.Written.write_at {a : Nat} (v : Byte) (hlow : base ≤ a) (hhigh : a < base + n) :
    Memory.Written base n m (memWrite m' a v) := by
  obtain ⟨j, rfl⟩ := Nat.exists_eq_add_of_le hlow
  exact h.write j v (by omega)

theorem Memory.Written.fill {a len : Nat} (f : Nat → Byte) (ha : ∀ j, j < len → base ≤ a + j ∧ a + j < base + n) :
    Memory.Written base n m (memFill m' a len f) :=
  loop_keeps _ (Memory.Written base n m) len m' h fun j _ hj hx => hx.write_at _ (ha j hj).1 (ha j hj).2

theorem Memory.Written.wf (hm : Memory.wf m) : Memory.wf m' := by
  induction h with
  | refl => exact hm
  | write j v _ _ ih => exact memWrite_wf _ _ _ ih

theorem Memory.Written.memRead_outside {a : Nat} (ha : a < base ∨ base + n ≤ a) : memRead m' a = memRead m a := by
  induction h with
  | refl => rfl
  | write j v hj _ ih => rw [memRead_memWrite_ne _ _ _ _ (by omega), ih]

end

/-! ### The loops of the commands

In each lemma the DST bytes the command needs are the first of the `n` bytes at `r.dst`, and `m₀` is MEM before the command. -/

section
variable {n : Nat} {m₀ : Memory}

theorem unfilterRows_written (r : Raster) (hn : r.rawLen ≤ n) :
    Memory.Written r.dst n m₀ (unfilterRows r m₀).1.mem := by
  refine sweep_keeps _ (fun k : RowWork => Memory.Written r.dst n m₀ k.mem) _ _ .refl fun y k hy hk => ?_
  simp only [unfilterRow]
  split
  · exact hk
  · refine loop_keeps _ (Memory.Written r.dst n m₀) _ _ hk fun x m hx hm => ?_
    rw [unfilterByte, Nat.add_assoc]
    exact hm.write _ _ (lt_of_lt_of_le (row_offset_lt hy hx) hn)

theorem filterRows_written (r : Raster) (code : Nat) (t : FilterType) (hn : r.filteredLen ≤ n) :
    Memory.Written r.dst n m₀ (loop (filterRow r code t) r.h m₀) := by
  refine loop_keeps _ (Memory.Written r.dst n m₀) _ _ .refl fun y m hy hm => ?_
  have htype := hm.write _ (BitVec.ofNat 8 code) (lt_of_lt_of_le (row_offset_lt (x := 0) hy (by omega)) hn)
  refine loop_keeps _ (Memory.Written r.dst n m₀) _ _ htype fun x m hx hm => ?_
  rw [filterByte, Nat.add_assoc, Nat.add_assoc]
  exact hm.write _ _ (lt_of_lt_of_le (row_offset_lt hy (by omega)) hn)

theorem expandPixels_written (L : Args) (r : Raster) (hn : 4 * r.w * r.h ≤ n) :
    Memory.Written r.dst n m₀ (expandPixels L r m₀).1.mem := by
  refine sweep_keeps _ (fun k : PixelWork => Memory.Written r.dst n m₀ k.mem) _ _ .refl fun y k hy hk => ?_
  refine sweep_keeps _ (fun k : PixelWork => Memory.Written r.dst n m₀ k.mem) _ _ hk fun x k hx hk => ?_
  unfold expandPixel
  split
  · exact hk
  · have hpix : 4 * (y * r.w + x) + 4 ≤ n := by
      have hlt : y * r.w + x < r.h * r.w := row_offset_lt hy hx
      have hlen : 4 * r.w * r.h = 4 * (r.h * r.w) := by rw [Nat.mul_assoc, Nat.mul_comm r.w]
      omega
    simp only [writePixel, Nat.add_assoc]
    exact (((hk.write _ _ (by omega)).write _ _ (by omega)).write _ _ (by omega)).write _ _ (by omega)

theorem packRows_written (r : Raster) (hn : r.rawLen ≤ n) : Memory.Written r.dst n m₀ (packRows r m₀).1.mem := by
  refine sweep_keeps _ (fun k : PackWork => Memory.Written r.dst n m₀ k.mem) _ _ .refl fun y k hy hk => ?_
  unfold packOneRow
  split
  · exact hk
  · refine hk.fill _ fun j hj => ?_
    have := lt_of_lt_of_le (row_offset_lt hy hj) hn
    omega

theorem scatterPixel_written (r : Raster) (cur : List Byte) {p row i : Nat} {m : Memory} (hf : r.fmt.depth ∈ r.fmt.ct.depths)
    (hrow : row < passRows r.w r.h p) (hi : i < passWidth r.w p) (hn : r.rawLen ≤ n) (hm : Memory.Written r.dst n m₀ m) :
    Memory.Written r.dst n m₀ (scatterPixel r cur p row i m) := by
  have hy := pass_row_lt hrow
  have hx := pass_column_lt hi
  obtain ⟨hpos, hwhole⟩ := r.fmt.bitsPP_pos_and_packed_or_whole hf
  unfold scatterPixel
  split
  · simp only [scatterBits, Nat.add_assoc]
    exact hm.write _ _ (lt_of_lt_of_le (row_offset_lt hy (r.fmt.packed_offset_lt hpos hx)) hn)
  · next hge =>
    refine hm.fill _ fun j hj => ?_
    have := lt_of_lt_of_le (row_offset_lt hy (r.fmt.whole_offset_lt (hwhole.resolve_left hge) hx hj)) hn
    have hbpl : r.bpl = r.fmt.bpl r.w := rfl
    rw [hbpl]
    omega

theorem adam7Passes_written (r : Raster) (lb : Ram 8) (hf : r.fmt.depth ∈ r.fmt.ct.depths) (hn : r.rawLen ≤ n) :
    Memory.Written r.dst n m₀ (adam7Passes r m₀ lb).1.mem := by
  have hclear : Memory.Written r.dst n m₀ (adam7Clear r m₀) := Memory.Written.refl.fill _ fun j hj => by omega
  refine sweep_keeps _ (fun k : Adam7Work => Memory.Written r.dst n m₀ k.mem) _ _ hclear fun p k _ hk => ?_
  refine sweep_keeps _ (fun k : Adam7Work => Memory.Written r.dst n m₀ k.mem) _ _ hk fun row k hrow hk => ?_
  simp only [adam7Row]
  split
  · exact hk
  · exact loop_keeps _ (Memory.Written r.dst n m₀) _ _ hk fun i m hi hm => scatterPixel_written r _ hf hrow hi hn hm

end

/-! ### Memories besides MEM -/

theorem storeLine_rising {lb : Ram 8} (cur : List Byte) (n : Nat) (h : Ram.Rising lb) : Ram.Rising (storeLine lb cur n) :=
  loop_keeps _ Ram.Rising n lb h fun _ x _ hx => Ram.put_rising x _ _ hx

theorem adam7Passes_rising (r : Raster) (m : Memory) {lb : Ram 8} (h : Ram.Rising lb) :
    Ram.Rising (adam7Passes r m lb).1.lb := by
  refine sweep_keeps _ (fun k : Adam7Work => Ram.Rising k.lb) _ _ h fun p k _ hk => ?_
  refine sweep_keeps _ (fun k : Adam7Work => Ram.Rising k.lb) _ _ hk fun row k _ hk => ?_
  simp only [adam7Row]
  split
  · exact hk
  · exact storeLine_rising _ _ hk

theorem addEntry_rising {table : Ram 20} (z : Lzw) (b : Byte) (h : Ram.Rising table) : Ram.Rising (addEntry table z b).1 := by
  unfold addEntry
  split
  · exact h
  · split
    · exact Ram.put_rising table _ _ h
    · exact h

/-! ### LZW_DECODE -/

/-- What an ordinary code does to the memories (R131 to R133): nothing, or its output goes to DST and at most one entry to the
table. -/
theorem lzwOrdinary_memories (dst : Region) (k : LzwRun) (code : Nat) :
    ((lzwOrdinary dst k code).1.mem = k.mem ∧ (lzwOrdinary dst k code).1.table = k.table) ∨
    ∃ (z : Lzw) (out : List Byte) (first : Byte), k.z.outPos + out.length ≤ dst.len ∧
      (lzwOrdinary dst k code).1.mem = memFill k.mem (dst.base + k.z.outPos) out.length (fun j => out.getD j 0) ∧
      (lzwOrdinary dst k code).1.table = (addEntry k.table z first).1 := by
  unfold lzwOrdinary
  split
  · split
    · exact .inl ⟨rfl, rfl⟩
    · split
      · exact .inl ⟨rfl, rfl⟩
      · next hroom => exact .inr ⟨_, _, _, Nat.le_of_not_lt hroom, rfl, rfl⟩
  · exact .inl ⟨rfl, rfl⟩

theorem lzwOrdinary_written {dst : Region} {m₀ : Memory} {k : LzwRun} (code : Nat)
    (hk : Memory.Written dst.base dst.len m₀ k.mem) :
    Memory.Written dst.base dst.len m₀ (lzwOrdinary dst k code).1.mem := by
  obtain ⟨hmem, -⟩ | ⟨z, out, first, hroom, hmem, -⟩ := lzwOrdinary_memories dst k code
  · rwa [hmem]
  · rw [hmem]
    exact hk.fill _ fun j hj => by omega

theorem lzwOrdinary_rising (dst : Region) {k : LzwRun} (code : Nat) (hk : Ram.Rising k.table) :
    Ram.Rising (lzwOrdinary dst k code).1.table := by
  obtain ⟨-, htable⟩ | ⟨z, out, first, -, -, htable⟩ := lzwOrdinary_memories dst k code
  · rwa [htable]
  · rw [htable]
    exact addEntry_rising z first hk

/-- What an ordinary code keeps, the loop of R121 keeps: the rest of a turn touches neither MEM nor the code table. -/
theorem lzwLoop_keeps (src dst : Region) (P : Memory → Ram 20 → Prop)
    (hP : ∀ (k : LzwRun) (code : Nat), P k.mem k.table → P (lzwOrdinary dst k code).1.mem (lzwOrdinary dst k code).1.table)
    (n : Nat) {k : LzwRun} (hk : P k.mem k.table) : P (lzwLoop src dst n k).1.mem (lzwLoop src dst n k).1.table := by
  induction n generalizing k with
  | zero => exact hk
  | succ n ih =>
    have hstep : P (lzwCodeStep src dst k).1.mem (lzwCodeStep src dst k).1.table := by
      unfold lzwCodeStep
      split
      · exact hk
      · exact hk
      · split
        · exact hk
        · split
          · exact hk
          · exact hP { k with z := _ } _ hk
    unfold lzwLoop
    split
    · next k' e h => rwa [h] at hstep
    · next k' h => rw [h] at hstep; exact ih hstep

theorem lzwLoop_written (src dst : Region) (n : Nat) (k : LzwRun) :
    Memory.Written dst.base dst.len k.mem (lzwLoop src dst n k).1.mem :=
  lzwLoop_keeps src dst (fun m _ => Memory.Written dst.base dst.len k.mem m) (fun _ code h => lzwOrdinary_written code h) n .refl

theorem lzwLoop_rising (src dst : Region) (n : Nat) {k : LzwRun} (h : Ram.Rising k.table) :
    Ram.Rising (lzwLoop src dst n k).1.table :=
  lzwLoop_keeps src dst (fun _ t => Ram.Rising t) (fun _ code h => lzwOrdinary_rising dst code h) n h

/-! ### Commands -/

/-- What a command does to the memories: MEM is written inside the latched DST region, and the other two stay canonical. -/
structure State.WritesDst (s t : State) : Prop where
  mem       : Memory.Written s.latch.dst.base s.latch.dst.len s.mem t.mem
  codeTable : Ram.Rising s.codeTable → Ram.Rising t.codeTable
  lineBuf   : Ram.Rising s.lineBuf → Ram.Rising t.lineBuf

theorem State.SameRams.writesDst {s t : State} (h : State.SameRams s t) : State.WritesDst s t where
  mem := h.mem ▸ .refl
  codeTable := fun hs => h.codeTable ▸ hs
  lineBuf := fun hs => h.lineBuf ▸ hs

/-- How a command concludes does not touch the memories. -/
theorem State.WritesDst.trans_sameRams {s t u : State} (h : State.WritesDst s t) (h' : State.SameRams t u) :
    State.WritesDst s u where
  mem := h'.mem ▸ h.mem
  codeTable := fun hs => h'.codeTable ▸ h.codeTable hs
  lineBuf := fun hs => h'.lineBuf ▸ h.lineBuf hs

theorem State.withMem_writesDst {s : State} {m : Memory} (h : Memory.Written s.latch.dst.base s.latch.dst.len s.mem m) :
    State.WritesDst s (s.withMem m) := ⟨h, id, id⟩

theorem State.withLineBuf_writesDst {s : State} {m : Memory} {lb : Ram 8}
    (h : Memory.Written s.latch.dst.base s.latch.dst.len s.mem m) (hl : Ram.Rising s.lineBuf → Ram.Rising lb) :
    State.WritesDst s ((s.withMem m).withLineBuf lb) := ⟨h, id, hl⟩

theorem State.checked_writesDst (s : State) (cs : List (Option CmdError)) (run : State)
    (h : firstError cs = none → State.WritesDst s run) : State.WritesDst s (s.checked cs run) := by
  obtain ⟨e, -, he⟩ | ⟨hc, he⟩ := s.checked_cases cs run _ rfl
  · rw [he]; exact (s.raise_sameRams e).writesDst
  · rw [he]; exact h hc

/-- DST_SHORT among the checks that passed gives a DST long enough. -/
theorem dstNeeded_le_of_checks {L : Args} {cs : List (Option CmdError)} {needed : Nat} (h : firstError cs = none)
    (hs : dstShortCheck L needed ∈ cs) : needed ≤ L.dst.len :=
  (dstShortCheck_eq_none L needed).1 ((firstError_eq_none cs).1 h _ hs)

theorem unfilterRun_writesDst (s : State) (f : PixFmt) (h : (s.latch.raster f).rawLen ≤ s.latch.dst.len) :
    State.WritesDst s (unfilterRun s (s.latch.raster f)) :=
  (State.withMem_writesDst (unfilterRows_written _ h)).trans_sameRams
    ((State.withCounters_sameRams _ _).trans (State.conclude_sameRams _ _ _ _))

theorem filterRun_writesDst (s : State) (f : PixFmt) (code : Nat) (ft : FilterType)
    (h : (s.latch.raster f).filteredLen ≤ s.latch.dst.len) :
    State.WritesDst s (filterRun s (s.latch.raster f) code ft) :=
  (State.withMem_writesDst (filterRows_written _ code ft h)).trans_sameRams
    ((State.withCounters_sameRams _ _).trans (State.conclude_sameRams _ _ none []))

theorem expandRun_writesDst (s : State) (f : PixFmt)
    (h : 4 * (s.latch.raster f).w * (s.latch.raster f).h ≤ s.latch.dst.len) :
    State.WritesDst s (expandRun s (s.latch.raster f)) :=
  (State.withMem_writesDst (expandPixels_written s.latch _ h)).trans_sameRams
    ((State.withCounters_sameRams _ _).trans (State.conclude_sameRams _ _ _ _))

theorem packRun_writesDst (s : State) (f : PixFmt) (h : (s.latch.raster f).rawLen ≤ s.latch.dst.len) :
    State.WritesDst s (packRun s (s.latch.raster f)) :=
  (State.withMem_writesDst (packRows_written _ h)).trans_sameRams
    ((State.withPackRow_sameRams _ _).trans ((State.withCounters_sameRams _ _).trans (State.conclude_sameRams _ _ _ _)))

theorem adam7Run_writesDst (s : State) (f : PixFmt) (hf : f.depth ∈ f.ct.depths)
    (h : (s.latch.raster f).rawLen ≤ s.latch.dst.len) : State.WritesDst s (adam7Run s (s.latch.raster f)) :=
  (State.withLineBuf_writesDst (adam7Passes_written _ s.lineBuf hf h) (adam7Passes_rising _ s.mem)).trans_sameRams
    ((State.withCounters_sameRams _ _).trans (State.conclude_sameRams _ _ _ _))

theorem State.withLzw_writesDst (s : State) (src : Region) (n : Nat) (z : Lzw) :
    State.WritesDst s (s.withLzw (lzwLoop src s.latch.dst n ⟨z, s.codeTable, s.mem⟩).1) where
  mem := lzwLoop_written src s.latch.dst n ⟨z, s.codeTable, s.mem⟩
  codeTable := lzwLoop_rising src s.latch.dst n (k := ⟨z, s.codeTable, s.mem⟩)
  lineBuf := id

theorem lzwDecodeFrom_writesDst {s t : State} (m : Nat) (h : lzwDecodeFrom s m = .next t) : State.WritesDst s t := by
  have hrams := s.withLzw_writesDst s.latch.src (lzwBound s.latch.src) (Lzw.init m)
  obtain ⟨_, -, rfl⟩ | ⟨-, rfl⟩ | ⟨-, rfl⟩ := lzwComplete_cases _ _ _ _ h <;>
    exact hrams.trans_sameRams (State.conclude_sameRams _ _ _ _)

theorem execLzwDecode_writesDst {s t : State} (h : execLzwDecode s = .next t) : State.WritesDst s t := by
  obtain ⟨e, -, rfl⟩ | ⟨-, ⟨e, -, rfl⟩ | ⟨b, -, ⟨-, rfl⟩ | ⟨-, -, hrun⟩⟩⟩ := execLzwDecode_cases s t h
  · exact (s.raise_sameRams _).writesDst
  · exact (s.conclude_sameRams _ _ _).writesDst
  · exact (s.conclude_sameRams _ _ _).writesDst
  · exact lzwDecodeFrom_writesDst _ hrun

/-- NOP and the CRC commands declare no DST region and touch no memory. -/
theorem exec_sameRams {i : Instr} {s t : State} (hi : i = .nop ∨ i = .crcInit ∨ i = .crcUpdate) (h : exec i s = .next t) :
    State.SameRams s t := by
  obtain rfl | rfl | rfl := hi
  · cases h; exact ⟨rfl, rfl, rfl, rfl⟩
  · cases h; exact ⟨rfl, rfl, rfl, rfl⟩
  · rw [execCrcUpdate_cases s t h]
    obtain ⟨e, -, he⟩ | ⟨-, he⟩ := s.checked_cases _ _ _ rfl
    · rw [he]; exact s.raise_sameRams e
    · rw [he]; exact crcUpdateRun_sameRams s

theorem exec_writesDst {i : Instr} {s t : State} (h : exec i s = .next t) : State.WritesDst s t := by
  cases i with
  | nop => exact (exec_sameRams (.inl rfl) h).writesDst
  | crcInit => exact (exec_sameRams (.inr (.inl rfl)) h).writesDst
  | crcUpdate => exact (exec_sameRams (.inr (.inr rfl)) h).writesDst
  | lzwDecode => exact execLzwDecode_writesDst h
  | unfilter =>
    obtain ⟨-, rfl⟩ | ⟨f, -, rfl⟩ := execUnfilter_cases s t h
    · exact (s.raise_sameRams _).writesDst
    · exact s.checked_writesDst _ _ fun hc =>
        unfilterRun_writesDst s f (dstNeeded_le_of_checks hc (dstShortCheck_mem_rasterChecks _ _ _ _))
  | filter ftype =>
    obtain ⟨-, rfl⟩ | ⟨ft, -, ⟨-, rfl⟩ | ⟨f, -, rfl⟩⟩ := execFilter_cases ftype s t h
    · exact (s.raise_sameRams _).writesDst
    · exact (s.raise_sameRams _).writesDst
    · exact s.checked_writesDst _ _ fun hc =>
        filterRun_writesDst s f ftype ft (dstNeeded_le_of_checks hc (dstShortCheck_mem_rasterChecks _ _ _ _))
  | expand =>
    obtain ⟨-, rfl⟩ | ⟨f, -, rfl⟩ := execExpand_cases s t h
    · exact (s.raise_sameRams _).writesDst
    · exact s.checked_writesDst _ _ fun hc =>
        expandRun_writesDst s f (dstNeeded_le_of_checks hc (by simp [expandChecks]))
  | pack =>
    obtain ⟨-, rfl⟩ | ⟨f, -, rfl⟩ := execPack_cases s t h
    · exact (s.raise_sameRams _).writesDst
    · exact s.checked_writesDst _ _ fun hc =>
        packRun_writesDst s f (dstNeeded_le_of_checks hc (dstShortCheck_mem_rasterChecks _ _ _ _))
  | adam7Deinterlace =>
    obtain ⟨-, rfl⟩ | ⟨f, hf, rfl⟩ := execAdam7_cases s t h
    · exact (s.raise_sameRams _).writesDst
    · exact s.checked_writesDst _ _ fun hc => adam7Run_writesDst s f (formatFor_depth_mem hf)
        (dstNeeded_le_of_checks hc (List.mem_append_left _ (dstShortCheck_mem_rasterChecks _ _ _ _)))

/-- Settles O27: a command without a DST region touches no memory, and the others write inside DST. -/
theorem commandsWriteOnlyDst : Obligations.CommandsWriteOnlyDst := by
  unfold Obligations.CommandsWriteOnlyDst
  intro i s t h a ha
  by_cases hi : i = .nop ∨ i = .crcInit ∨ i = .crcUpdate
  · rw [State.readByte, State.readByte, (exec_sameRams hi h).mem]
  · have hout : a < s.latch.dst.base ∨ s.latch.dst.base + s.latch.dst.len ≤ a := by
      simp only [not_or] at hi
      obtain ⟨hnop, hinit, hupdate⟩ := hi
      exact ((ha.resolve_left hnop).resolve_left hinit).resolve_left hupdate
    exact (exec_writesDst h).mem.memRead_outside hout

/-! ### Steps -/

theorem State.SameRams.ramsCanonical {s t : State} (h : State.SameRams s t) (hs : s.RamsCanonical) : t.RamsCanonical := by
  unfold State.RamsCanonical
  rwa [h.mem, h.codeTable, h.lineBuf]

theorem runCommand_ramsCanonical {s t : State} (h : runCommand s = .next t) (hs : s.RamsCanonical) : t.RamsCanonical := by
  obtain ⟨_, -, rfl⟩ | ⟨i, -, hi⟩ := runCommand_cases s t h
  · exact (s.raise_sameRams _).ramsCanonical hs
  · obtain ⟨hmem, htable, hline⟩ := hs
    have hw := exec_writesDst hi
    exact ⟨hw.mem.wf hmem, hw.codeTable htable, hw.lineBuf hline⟩

theorem State.serve_ramsCanonical {s t : State} {q : HostReq} {rest : List HostReq} (h : s.serve q rest = .next t)
    (hs : s.RamsCanonical) : t.RamsCanonical := by
  have hq := s.withQueue_sameRams rest
  obtain ⟨off, v, -, -, rfl⟩ | ⟨off, -, -, rfl⟩ | ⟨a, b, -, -, rfl⟩ | ⟨a, -, -, rfl⟩ | ⟨-, rfl⟩ := s.serve_cases t q rest h
  · exact (hq.trans (State.portWrite_sameRams _ off v)).ramsCanonical hs
  · exact (hq.trans (State.portRead_sameRams _ off)).ramsCanonical hs
  · obtain ⟨hmem, htable, hline⟩ := hs
    exact ⟨memWrite_wf s.mem a b hmem, htable, hline⟩
  · exact (hq.trans ⟨rfl, rfl, rfl, rfl⟩).ramsCanonical hs
  · split
    · exact (State.portRead_sameRams s _).ramsCanonical hs
    · exact (hq.trans (State.portRead_sameRams _ _)).ramsCanonical hs

theorem State.hostTurn_ramsCanonical {s t : State} (h : s.hostTurn = .next t) (hs : s.RamsCanonical) : t.RamsCanonical := by
  obtain ⟨-, rfl⟩ | ⟨q, rest, -, ⟨-, rfl⟩ | ⟨-, hq⟩⟩ := s.hostTurn_cases t h
  · exact hs
  · exact hs
  · exact State.serve_ramsCanonical hq hs

theorem advance_ramsCanonical {s t : State} (h : advance s = .next t) (hs : s.RamsCanonical) : t.RamsCanonical := by
  obtain ⟨-, -, hr⟩ | ⟨n, -, -, ht⟩ | ⟨-, ht⟩ := advance_cases s t h
  · exact runCommand_ramsCanonical hr hs
  · exact State.hostTurn_ramsCanonical (s := { s with busyLeft := n }) ht hs
  · exact State.hostTurn_ramsCanonical ht hs

/-- The fill of an abandoned DST region is a block write (R292); the other memories list nothing after reset. -/
theorem State.assertReset_ramsCanonical {s : State} (hs : s.RamsCanonical) : s.assertReset.RamsCanonical := by
  obtain ⟨hmem, -, -⟩ := hs
  refine ⟨?_, List.Pairwise.nil, List.Pairwise.nil⟩
  show Memory.wf s.abandonedMem
  unfold State.abandonedMem
  split
  · exact memFill_wf _ _ _ _ hmem
  · exact hmem

/-- Settles O23, by what a step can do: reset, a completing command, or one transaction of the host. -/
theorem stepKeepsMemoriesCanonical : Obligations.StepKeepsMemoriesCanonical := by
  unfold Obligations.StepKeepsMemoriesCanonical
  intro s t hs h
  obtain ⟨rest, -, rfl⟩ | ⟨-, ha⟩ | ⟨rest, -, ha⟩ := step_cases s t h
  · exact State.assertReset_ramsCanonical (s := { s with rstPin := rest }) hs
  · exact advance_ramsCanonical ha hs
  · exact advance_ramsCanonical (s := { s with rstPin := rest }) ha hs

end Sys2Proof.Machine
end

section
/-! SUPPORT. Regions (R64), the MEM port and the accesses outside the interface (R65, R66, R68), and the completion of a running command
(R74, R300). -/

namespace Sys2Proof.Machine

/-! ### Regions (R64) -/

/-- A region in range: its last address exists, if it has one. -/
theorem Region.inRange_iff (p : Params) (r : Region) :
    r.inRange p = true ↔ ∀ a, r.base ≤ a → a < r.base + r.len → a < p.memBytes := by
  rw [Region.inRange, decide_eq_true_eq]
  constructor
  · intro h a hlow hhigh
    omega
  · intro h
    by_cases hlen : r.len = 0
    · exact .inl hlen
    · have := h (r.base + r.len - 1) (by omega) (by omega)
      exact .inr (by omega)

/-- Of two overlapping regions the higher base lies in both. -/
theorem Region.overlaps_iff (r q : Region) :
    r.overlaps q = true ↔ ∃ a, (r.base ≤ a ∧ a < r.base + r.len) ∧ (q.base ≤ a ∧ a < q.base + q.len) := by
  rw [Region.overlaps, decide_eq_true_eq]
  constructor
  · intro h
    exact ⟨max r.base q.base, by omega⟩
  · rintro ⟨a, hr, hq⟩
    omega

/-- Settles O31. -/
theorem regionsOfR64 : Obligations.RegionsOfR64 := by
  unfold Obligations.RegionsOfR64
  exact ⟨Region.inRange_iff, Region.overlaps_iff⟩

/-! ### The transaction at the head of the queue -/

section
variable {s : State} {q : HostReq} {rest : List HostReq}

/-- A ready host's transaction that is not held is served, with one step of waiting less for a running command. -/
theorem step_serves (h : s.hostReady) (hq : s.hostQ = q :: rest) (hheld : q.held s.status.busy = false) :
    step s = State.serve { s with busyLeft := if s.status.busy then s.busyLeft - 1 else s.busyLeft } q rest := by
  rw [step_of_hostReady h]
  simp only [State.hostTurn, hq, hheld, Bool.false_eq_true, if_false]

/-- A held transaction stays at the head of the queue: the step only waits (R66). -/
theorem step_held (h : s.hostReady) (hq : s.hostQ = q :: rest) (hb : s.status.busy = true)
    (hheld : q.held true = true) : step s = .next { s with busyLeft := s.busyLeft - 1 } := by
  rw [step_of_hostReady h]
  simp only [State.hostTurn, hq, hheld, hb, if_true]

/-- At an idle block any transaction is served. -/
theorem step_of_idle (hr : s.rstPin = []) (hb : s.status.busy = false) (hq : s.hostQ = q :: rest) :
    step s = s.serve q rest := by
  have hheld : q.held s.status.busy = false := by rw [hb]; cases q <;> rfl
  rw [step_serves (State.hostReady_of_idle hr hb) hq hheld]
  simp [hb]

theorem step_memr {a : Nat} (hr : s.rstPin = []) (hb : s.status.busy = false) (hq : s.hostQ = .memr a :: rest)
    (ha : a < s.params.memBytes) : step s = .next ((s.withQueue rest).answer (.mem a (s.readByte a))) := by
  rw [step_of_idle hr hb hq, State.serve, if_pos ha]

theorem step_memw {a : Nat} {b : Byte} (hr : s.rstPin = []) (hb : s.status.busy = false) (hq : s.hostQ = .memw a b :: rest)
    (ha : a < s.params.memBytes) : step s = .next ((s.withQueue rest).withMem (memWrite s.mem a b)) := by
  rw [step_of_idle hr hb hq, State.serve, if_pos ha]

end

/-- A step of a running command serves no MEM access: neither a step of waiting nor the completion step (R66). -/
theorem step_of_busy_mem {s t : State} {q : HostReq} {rest : List HostReq} (hr : s.rstPin = []) (hb : s.status.busy = true)
    (hq : s.hostQ = q :: rest) (hheld : q.held true = true) (h : step s = .next t) :
    t.hostQ = s.hostQ ∧ t.answers = s.answers ∧ (s.busyLeft ≠ 0 → t = { s with busyLeft := s.busyLeft - 1 }) := by
  by_cases hl : s.busyLeft = 0
  · rw [step_completion hr hb hl] at h
    obtain ⟨i, hend⟩ := runCommand_commandEnd h
    exact ⟨hend.sameHostSide.hostQ, hend.sameHostSide.answers, fun hne => absurd hl hne⟩
  · rw [step_held ⟨hr, fun _ => hl⟩ hq hb hheld] at h
    cases h
    exact ⟨rfl, rfl, fun _ => rfl⟩

theorem memWrite_sameOutside {s t : State} {a : Nat} {b : Byte} (h : t.mem = memWrite s.mem a b) :
    t.readByte a = b ∧ State.sameOutside s t a 1 := by
  refine ⟨?_, fun c hc => ?_⟩
  · rw [State.readByte, h, memRead_memWrite_self]
  · rw [State.readByte, State.readByte, h, memRead_memWrite_ne _ _ _ _ (by omega)]

/-- Settles O18: a MEM access is held at every step of a running command, and served by an idle block. -/
theorem memAccessHeldWhileBusy : Obligations.MemAccessHeldWhileBusy := by
  unfold Obligations.MemAccessHeldWhileBusy
  intro s q rest a b hr hq hmem ha
  have hheld : q.held true = true := by obtain rfl | rfl := hmem <;> rfl
  refine ⟨fun hb t ht => step_of_busy_mem hr hb hq hheld ht, ?_, ?_⟩
  · rintro hb rfl
    exact step_memr hr hb hq ha
  · rintro hb rfl
    exact ⟨_, step_memw hr hb hq ha, rfl, memWrite_sameOutside rfl⟩

/-! ### The accesses outside the interface (R65, R68) -/

theorem portOffsetOk_eq_false {off : Nat} (h : off % 4 ≠ 0 ∨ 0xFC < off) : portOffsetOk off = false :=
  decide_eq_false (by omega)

/-- A read of the port answers one value. -/
theorem State.portRead_answers (s : State) (off : Nat) : ∃ v, (s.portRead off).answers = s.answers ++ [.reg off v] := by
  obtain ⟨-, h⟩ | ⟨r, -, ⟨-, h⟩ | ⟨-, h⟩⟩ := s.portRead_cases off <;> rw [h] <;> exact ⟨_, rfl⟩

section
variable {s : State} {rest : List HostReq}

theorem step_wr_refused (h : s.hostReady) {off : Nat} {v : Word} (hq : s.hostQ = .wr off v :: rest)
    (ho : portOffsetOk off = false) : step s = .refused (.portOffset off) := by
  rw [step_serves h hq rfl, State.serve, ho]
  rfl

theorem step_rd_refused (h : s.hostReady) {off : Nat} (hq : s.hostQ = .rd off :: rest)
    (ho : portOffsetOk off = false) : step s = .refused (.portOffset off) := by
  rw [step_serves h hq rfl, State.serve, ho]
  rfl

theorem step_memw_refused {a : Nat} {b : Byte} (hr : s.rstPin = []) (hb : s.status.busy = false)
    (hq : s.hostQ = .memw a b :: rest) (ha : s.params.memBytes ≤ a) : step s = .refused (.memOutside a) := by
  rw [step_of_idle hr hb hq, State.serve, if_neg (Nat.not_lt_of_le ha)]

theorem step_memr_refused {a : Nat} (hr : s.rstPin = []) (hb : s.status.busy = false)
    (hq : s.hostQ = .memr a :: rest) (ha : s.params.memBytes ≤ a) : step s = .refused (.memOutside a) := by
  rw [step_of_idle hr hb hq, State.serve, if_neg (Nat.not_lt_of_le ha)]

end

/-- Settles O19: one step per kind of access, inside the interface and outside it. -/
theorem outsideTheInterfaceIsRefused : Obligations.OutsideTheInterfaceIsRefused := by
  unfold Obligations.OutsideTheInterfaceIsRefused
  intro s rest hready
  obtain ⟨hr, -⟩ := id hready
  refine ⟨fun off v hq => ⟨fun ⟨halign, hle⟩ => ?_, fun ho => step_wr_refused hready hq (portOffsetOk_eq_false ho)⟩,
    fun off hq => ⟨fun ⟨halign, hle⟩ => ?_, fun ho => step_rd_refused hready hq (portOffsetOk_eq_false ho)⟩,
    fun off bytes hq => step_serves hready hq rfl,
    fun a b hb hq => ⟨fun ha => ⟨_, step_memw hr hb hq ha, memWrite_sameOutside rfl⟩, step_memw_refused hr hb hq⟩,
    fun a hb hq => ⟨fun ha => ⟨_, step_memr hr hb hq ha, rfl⟩, step_memr_refused hr hb hq⟩⟩
  · exact ⟨_, step_wr hready hq (portOffsetOk_of halign hle), State.portWrite_hostQ _ off v⟩
  · obtain ⟨v, hv⟩ := (s.ticked rest).portRead_answers off
    exact ⟨_, v, step_rd hready hq (portOffsetOk_of halign hle), State.portRead_hostQ _ off, hv⟩

/-! ### A running command completes (R74, R300) -/

theorem core_run_one {M : Host.Core} (s : M.State) : M.run 1 s = M.step s := by
  rw [Host.Core.run]
  cases M.step s <;> rfl

theorem core_run_succ_of_next {M : Host.Core} {s t : M.State} (k : Nat) (h : M.step s = .next t) :
    M.run (k + 1) s = M.run k t := by
  rw [Host.Core.run, h]

/-- With `rst` low and no transaction, a running command with steps to wait only waits. -/
theorem step_of_waiting_alone {s : State} (hb : s.status.busy = true) (hr : s.rstPin = []) (hq : s.hostQ = [])
    (hl : s.busyLeft ≠ 0) : step s = .next { s with busyLeft := s.busyLeft - 1 } := by
  rw [step_of_hostReady ⟨hr, fun _ => hl⟩, hb]
  simp only [State.hostTurn, hq, if_true]

/-- By induction on the steps of waiting. -/
theorem core_run_completes (n : Nat) {s : State} (hb : s.status.busy = true) (hr : s.rstPin = []) (hq : s.hostQ = [])
    (hl : s.busyLeft = n) : Host.Core.run Sys2Proof.core (n + 1) s = runCommand { s with busyLeft := 0 } := by
  induction n generalizing s with
  | zero =>
    have hdone : { s with busyLeft := 0 } = s := by rw [← hl]
    rw [hdone]
    exact (core_run_one (M := Sys2Proof.core) s).trans (step_completion hr hb hl)
  | succ n ih =>
    have hstep := step_of_waiting_alone hb hr hq (by omega)
    rw [core_run_succ_of_next (M := Sys2Proof.core) (n + 1) hstep]
    exact ih (s := { s with busyLeft := s.busyLeft - 1 }) hb hr hq (by simp [hl])

/-- Settles O7: after the steps of waiting comes the completion step, for a legal word and an illegal one. -/
theorem runningCommandCompletes : Obligations.RunningCommandCompletes := by
  unfold Obligations.RunningCommandCompletes
  intro s hb hr hq
  have hrun := core_run_completes s.busyLeft hb hr hq rfl
  refine ⟨fun i hi => ?_, fun why hwhy => ?_⟩
  · exact hrun.trans (runCommand_of_ok (s := { s with busyLeft := 0 }) hi)
  · rw [hrun, runCommand, hwhy]
    rfl

end Sys2Proof.Machine
end

section
/-! SUPPORT. What a command reads (R62, R267): two runs of its loops over memories that agree on the regions it declares do the same
writes, so they end alike and agree there again. -/

namespace Sys2Proof.Machine

/-! ### Memories that agree on some addresses -/

/-- The addresses in `R` read alike. -/
def Memory.AgreeOn (R : Nat → Prop) (m m' : Memory) : Prop := ∀ a, R a → memRead m' a = memRead m a

theorem Memory.AgreeOn.write {R : Nat → Prop} {m m' : Memory} (h : m.AgreeOn R m') (a : Nat) (v : Byte) :
    Memory.AgreeOn R (memWrite m a v) (memWrite m' a v) := by
  intro b hb
  rw [memRead_memWrite, memRead_memWrite, h b hb]

theorem Memory.AgreeOn.fill {R : Nat → Prop} {m m' : Memory} (h : m.AgreeOn R m') (base n : Nat) (f : Nat → Byte) :
    Memory.AgreeOn R (memFill m base n f) (memFill m' base n f) := by
  intro b hb
  rw [memRead_memFill, memRead_memFill, h b hb]

/-! ### Loops that run side by side -/

section
variable {σ : Type}

/-- A relation that every turn of two loops keeps holds of their results. -/
theorem loop_related (f g : Nat → σ → σ) (S : σ → σ → Prop) (n : Nat) {s t : σ} (h0 : S s t)
    (hf : ∀ k x y, k < n → S x y → S (f k x) (g k y)) : S (loop f n s) (loop g n t) := by
  induction n with
  | zero => exact h0
  | succ n ih => exact hf n _ _ (Nat.lt_succ_self n) (ih fun k x y hk => hf k x y (Nat.lt_succ_of_lt hk))

/-- Two computations end in the same way, with related results. -/
def EndAlike {ε : Type} (S : σ → σ → Prop) (x y : σ × ε) : Prop := y.2 = x.2 ∧ S x.1 y.1

/-- Two raising loops side by side: `R k` holds before turn `k` of both, and every turn ends alike. -/
theorem sweep_related_indexed (f g : Nat → σ → σ × Option CmdError) (R : Nat → σ → σ → Prop) (S : σ → σ → Prop) (n : Nat)
    {s t : σ} (h0 : R 0 s t) (hS : ∀ k x y, R k x y → S x y)
    (hf : ∀ k x y, k < n → R k x y →
      EndAlike S (f k x) (g k y) ∧ ((f k x).2 = none → R (k + 1) (f k x).1 (g k y).1)) :
    EndAlike S (sweep f n s) (sweep g n t) ∧ ((sweep f n s).2 = none → R n (sweep f n s).1 (sweep g n t).1) := by
  induction n with
  | zero => exact ⟨⟨rfl, hS 0 s t h0⟩, fun _ => h0⟩
  | succ n ih =>
    obtain ⟨⟨hend, hrel⟩, hgo⟩ := ih fun k x y hk => hf k x y (Nat.lt_succ_of_lt hk)
    rcases hs : sweep f n s with ⟨x, e⟩
    rcases ht : sweep g n t with ⟨y, e'⟩
    rw [hs, ht] at hend hrel
    rw [hs, ht] at hgo
    obtain rfl : e' = e := hend
    cases e' with
    | some e =>
      rw [sweep_succ_of_some f n s x e hs, sweep_succ_of_some g n t y e ht]
      exact ⟨⟨rfl, hrel⟩, fun he => by cases he⟩
    | none =>
      rw [sweep_succ_of_none f n s x hs, sweep_succ_of_none g n t y ht]
      exact hf n x y (Nat.lt_succ_self n) (hgo rfl)

theorem sweep_related (f g : Nat → σ → σ × Option CmdError) (S : σ → σ → Prop) (n : Nat) {s t : σ} (h0 : S s t)
    (hf : ∀ k x y, k < n → S x y → EndAlike S (f k x) (g k y)) : EndAlike S (sweep f n s) (sweep g n t) :=
  (sweep_related_indexed f g (fun _ => S) S n h0 (fun _ _ _ h => h)
    fun k x y hk h => ⟨hf k x y hk h, fun _ => (hf k x y hk h).2⟩).1

theorem sweep_congr (f g : Nat → σ → σ × Option CmdError) (n : Nat) (s : σ) (h : ∀ k x, k < n → g k x = f k x) :
    sweep g n s = sweep f n s := by
  obtain ⟨hend, hrel⟩ := sweep_related f g Eq n (s := s) rfl fun k x y hk hxy => by
    subst hxy
    rw [h k x hk]
    exact ⟨rfl, rfl⟩
  exact Prod.ext hrel.symm hend

end

/-! ### Scanlines -/

section
variable {R : Nat → Prop} {m m' : Memory} (h : m.AgreeOn R m')
include h

theorem rawByte_agree {base rows bpl y x : Nat} (hr : ∀ j, j < rows * bpl → R (base + j)) (hy : y < rows)
    (hx : x < bpl) : rawByte m' base bpl y x = rawByte m base bpl y x := by
  unfold rawByte
  rw [Nat.add_assoc]
  exact h _ (hr _ (row_offset_lt hy hx))

/-- The neighbours of a byte are bytes of its row and of the row above (R163). -/
theorem neighbours_agree {base rows bpl y x : Nat} (bytesPP : Nat) (hr : ∀ j, j < rows * bpl → R (base + j))
    (hy : y < rows) (hx : x < bpl) :
    neighbours (rawByte m' base bpl) bytesPP y x = neighbours (rawByte m base bpl) bytesPP y x := by
  have hraw : ∀ y' x', y' ≤ y → x' ≤ x → rawByte m' base bpl y' x' = rawByte m base bpl y' x' :=
    fun y' x' hy' hx' => rawByte_agree h hr (lt_of_le_of_lt hy' hy) (lt_of_le_of_lt hx' hx)
  simp only [neighbours, hraw y (x - bytesPP) le_rfl (Nat.sub_le _ _), hraw (y - 1) x (Nat.sub_le _ _) le_rfl,
    hraw (y - 1) (x - bytesPP) (Nat.sub_le _ _) (Nat.sub_le _ _)]

end

/-! ### UNFILTER and FILTER -/

/-- The same rows done, on memories that agree. -/
def RowWork.Agree (R : Nat → Prop) (k k' : RowWork) : Prop := ∃ m', k' = { k with mem := m' } ∧ k.mem.AgreeOn R m'

section
variable {R : Nat → Prop} {m m' : Memory}

theorem unfilterByte_agree (r : Raster) (t : FilterType) {y x : Nat} (hs : ∀ j, j < r.filteredLen → R (r.src + j))
    (hd : ∀ j, j < r.rawLen → R (r.dst + j)) (hy : y < r.h) (hx : x < r.bpl) (h : m.AgreeOn R m') :
    (unfilterByte r t y x m).AgreeOn R (unfilterByte r t y x m') := by
  have hsrc : memRead m' (r.src + y * (1 + r.bpl) + 1 + x) = memRead m (r.src + y * (1 + r.bpl) + 1 + x) := by
    rw [Nat.add_assoc, Nat.add_assoc]
    exact h _ (hs _ (row_offset_lt hy (by omega)))
  rw [unfilterByte, unfilterByte, hsrc, neighbours_agree h r.fmt.bytesPP hd hy hx]
  exact h.write _ _

theorem unfilterRows_agree (r : Raster) (hs : ∀ j, j < r.filteredLen → R (r.src + j))
    (hd : ∀ j, j < r.rawLen → R (r.dst + j)) (h : m.AgreeOn R m') :
    EndAlike (RowWork.Agree R) (unfilterRows r m) (unfilterRows r m') := by
  refine sweep_related _ _ (RowWork.Agree R) _ ⟨m', rfl, h⟩ ?_
  rintro y k _ hy ⟨m', rfl, h⟩
  have htype := h _ (hs _ (row_offset_lt (x := 0) hy (by omega)))
  simp only [unfilterRow]
  rw [show memRead m' (r.src + y * (1 + r.bpl)) = memRead k.mem (r.src + y * (1 + r.bpl)) from htype]
  split
  · exact ⟨rfl, m', rfl, h⟩
  · next ft _ =>
    exact ⟨rfl, _, rfl, loop_related _ _ (Memory.AgreeOn R) _ h fun x _ _ hx h => unfilterByte_agree r ft hs hd hy hx h⟩

theorem filterRows_agree (r : Raster) (code : Nat) (t : FilterType) (hs : ∀ j, j < r.rawLen → R (r.src + j))
    (h : m.AgreeOn R m') : (loop (filterRow r code t) r.h m).AgreeOn R (loop (filterRow r code t) r.h m') := by
  refine loop_related _ _ (Memory.AgreeOn R) _ h fun y _ _ hy h => ?_
  refine loop_related _ _ (Memory.AgreeOn R) _ (h.write _ _) fun x _ _ hx h => ?_
  rw [filterByte, filterByte, rawByte_agree h hs hy hx, neighbours_agree h r.fmt.bytesPP hs hy hx]
  exact h.write _ _

/-! ### EXPAND -/

/-- Below depth 8 a pixel is one sample; otherwise a sample is one byte or two (R191). -/
theorem Ctype.depth_cases {ct : Ctype} {d : Nat} (h : d ∈ ct.depths) : (d < 8 ∧ ct.channels = 1) ∨ d = 8 ∨ d = 16 := by
  cases ct <;> simp [Ctype.depths, Ctype.channels] at h ⊢ <;> omega

/-- A sample of pixel `x` lies in the bytes of its row (R192). -/
theorem rowSample_congr {row row' : Nat → Byte} (f : PixFmt) {w x j : Nat} (hf : f.depth ∈ f.ct.depths) (hx : x < w)
    (hj : j < f.ct.channels) (hrow : ∀ k, k < f.bpl w → row' k = row k) : rowSample row' f x j = rowSample row f x j := by
  obtain ⟨hpos, -⟩ := f.bitsPP_pos_and_packed_or_whole hf
  have hbits : f.bitsPP = f.ct.channels * f.depth := rfl
  unfold rowSample
  obtain ⟨hlow, hone⟩ | h8 | h16 := Ctype.depth_cases hf
  · have hoff := f.packed_offset_lt hpos hx
    rw [hbits, hone, Nat.one_mul] at hoff
    simp only [if_pos hlow, hrow _ hoff]
  · have hbytes : f.bytesPP = f.ct.channels := by rw [PixFmt.bytesPP, ceilDiv_eight, hbits, h8]; omega
    have hoff := f.whole_offset_lt (j := j) (by rw [hbytes, hbits, h8]; omega) hx (by omega)
    rw [hbytes] at hoff
    simp only [h8, lt_irrefl, if_true, if_false, hrow _ hoff]
  · have hbytes : f.bytesPP = 2 * f.ct.channels := by rw [PixFmt.bytesPP, ceilDiv_eight, hbits, h16]; omega
    have hwhole : f.bitsPP = 8 * f.bytesPP := by rw [hbytes, hbits, h16]; omega
    have hlow := f.whole_offset_lt (j := 2 * j) hwhole hx (by omega)
    have hhigh := f.whole_offset_lt (j := 2 * j + 1) hwhole hx (by omega)
    have hoff : x * f.bytesPP + 2 * j = 2 * (x * f.ct.channels + j) := by rw [hbytes]; ring
    rw [hoff] at hlow
    rw [← Nat.add_assoc, hoff] at hhigh
    simp [h16, hrow _ hlow, hrow _ hhigh]

theorem sample_agree (r : Raster) (hf : r.fmt.depth ∈ r.fmt.ct.depths) (hs : ∀ j, j < r.rawLen → R (r.src + j)) {y x j : Nat}
    (hy : y < r.h) (hx : x < r.w) (hj : j < r.fmt.ct.channels) (h : m.AgreeOn R m') :
    sample m' r.src r.w r.fmt y x j = sample m r.src r.w r.fmt y x j := by
  refine rowSample_congr r.fmt hf hx hj fun k hk => ?_
  rw [Nat.add_assoc]
  exact h _ (hs _ (row_offset_lt hy hk))

/-- PLTE and TRNS may be read (R198). -/
def Args.TablesIn (L : Args) (R : Nat → Prop) : Prop :=
  (∀ j, j < 3 * L.plteCount.toNat → R (L.plteAddr.toNat + j)) ∧ ∀ j, j < L.trnsLen.toNat → R (L.trnsAddr.toNat + j)

theorem pixelPalette_agree (L : Args) (ht : L.TablesIn R) (j : Nat) (h : m.AgreeOn R m') :
    pixelPalette m' L j = pixelPalette m L j := by
  obtain ⟨hplte, htrns⟩ := ht
  unfold pixelPalette
  by_cases hj : L.plteCount.toNat ≤ j
  · simp only [if_pos hj]
  · have hread : ∀ i, i < 3 → memRead m' (L.plteAddr.toNat + (3 * j + i)) = memRead m (L.plteAddr.toNat + (3 * j + i)) :=
      fun i hi => h _ (hplte _ (by omega))
    have hred : memRead m' (L.plteAddr.toNat + 3 * j) = memRead m (L.plteAddr.toNat + 3 * j) := hread 0 (by omega)
    have halpha : (if j < L.trnsLen.toNat then memRead m' (L.trnsAddr.toNat + j) else 255) =
        if j < L.trnsLen.toNat then memRead m (L.trnsAddr.toNat + j) else 255 := by
      split
      · next hlt => exact h _ (htrns _ hlt)
      · rfl
    simp only [if_neg hj, halpha, hred, Nat.add_assoc, hread 1 (by omega), hread 2 (by omega)]

/-- A pixel depends on its samples and, for a palette image, on the tables (R196 to R200). -/
theorem pixelAt_agree (L : Args) (r : Raster) (hf : r.fmt.depth ∈ r.fmt.ct.depths)
    (hs : ∀ j, j < r.rawLen → R (r.src + j)) (ht : r.fmt.ct = .palette → L.TablesIn R) {y x : Nat} (hy : y < r.h)
    (hx : x < r.w) (h : m.AgreeOn R m') : pixelAt m' L r y x = pixelAt m L r y x := by
  have hsample : ∀ j, j < r.fmt.ct.channels → sample m' r.src r.w r.fmt y x j = sample m r.src r.w r.fmt y x j :=
    fun j hj => sample_agree r hf hs hy hx hj h
  unfold pixelAt
  cases hct : r.fmt.ct with
  | gray =>
    rw [hct] at hsample
    simp only [hsample 0 (by decide)]
  | rgb =>
    rw [hct] at hsample
    simp only [pixelRgb, hsample 0 (by decide), hsample 1 (by decide), hsample 2 (by decide)]
  | palette =>
    rw [hct] at hsample
    simp only [hsample 0 (by decide)]
    exact pixelPalette_agree L (ht hct) _ h
  | grayAlpha =>
    rw [hct] at hsample
    simp only [pixelGrayAlpha, hsample 0 (by decide), hsample 1 (by decide)]
  | rgba =>
    rw [hct] at hsample
    simp only [pixelRgba, hsample 0 (by decide), hsample 1 (by decide), hsample 2 (by decide), hsample 3 (by decide)]

/-- The same pixels done, on memories that agree. -/
def PixelWork.Agree (R : Nat → Prop) (k k' : PixelWork) : Prop := ∃ m', k' = { k with mem := m' } ∧ k.mem.AgreeOn R m'

theorem expandPixels_agree (L : Args) (r : Raster) (hf : r.fmt.depth ∈ r.fmt.ct.depths)
    (hs : ∀ j, j < r.rawLen → R (r.src + j)) (ht : r.fmt.ct = .palette → L.TablesIn R) (h : m.AgreeOn R m') :
    EndAlike (PixelWork.Agree R) (expandPixels L r m) (expandPixels L r m') := by
  refine sweep_related _ _ (PixelWork.Agree R) _ ⟨m', rfl, h⟩ fun y _ _ hy hk => ?_
  refine sweep_related _ _ (PixelWork.Agree R) _ hk ?_
  rintro x k _ hx ⟨m', rfl, h⟩
  simp only [expandPixel, pixelAt_agree L r hf hs ht hy hx h]
  split
  · exact ⟨rfl, m', rfl, h⟩
  · exact ⟨rfl, _, rfl, (((h.write _ _).write _ _).write _ _).write _ _⟩

/-! ### PACK -/

theorem packRow_agree (r : Raster) (hs : ∀ j, j < r.sampleBytes → R (r.src + j)) {y : Nat} (hy : y < r.h)
    (h : m.AgreeOn R m') : packRow m' r y = packRow m r y := by
  refine sweep_congr _ _ _ _ fun x row hx => sweep_congr _ _ _ _ fun j row hj => ?_
  have hoff : (y * r.w + x) * r.fmt.ct.channels + j < r.sampleBytes := by
    rw [Raster.sampleBytes, Nat.mul_comm r.w]
    exact row_offset_lt (row_offset_lt hy hx) hj
  have hread := h _ (hs _ hoff)
  rw [← Nat.add_assoc] at hread
  simp only [packSample, hread]

/-- The same row register and rows done, on memories that agree. -/
def PackWork.Agree (R : Nat → Prop) (k k' : PackWork) : Prop := ∃ m', k' = { k with mem := m' } ∧ k.mem.AgreeOn R m'

theorem packRows_agree (r : Raster) (hs : ∀ j, j < r.sampleBytes → R (r.src + j)) (h : m.AgreeOn R m') :
    EndAlike (PackWork.Agree R) (packRows r m) (packRows r m') := by
  refine sweep_related _ _ (PackWork.Agree R) _ ⟨m', rfl, h⟩ ?_
  rintro y k _ hy ⟨m', rfl, h⟩
  simp only [packOneRow, packRow_agree r hs hy h]
  split
  · exact ⟨rfl, m', rfl, h⟩
  · exact ⟨rfl, _, rfl, h.fill _ _ _⟩

/-! ### ADAM7_DEINTERLACE -/

theorem passCur_agree (lb : Ram 8) {base : Nat} (bytesPP row : Nat) (t : FilterType) {n : Nat}
    (hs : ∀ x, x < n → R (base + (1 + x))) (h : m.AgreeOn R m') :
    passCur m' lb base bytesPP row t n = passCur m lb base bytesPP row t n := by
  refine loop_congr _ _ _ _ fun x hx => ?_
  rw [Nat.add_assoc, h _ (hs x hx)]

theorem scatterBits_agree (r : Raster) (cur : List Byte) {y x : Nat} (i : Nat) (hb : 0 < r.fmt.bitsPP) (hy : y < r.h)
    (hx : x < r.w) (hd : ∀ j, j < r.rawLen → R (r.dst + j)) (h : m.AgreeOn R m') :
    (scatterBits r cur y x i m).AgreeOn R (scatterBits r cur y x i m') := by
  have hread : memRead m' (r.dst + y * r.bpl + x * r.fmt.bitsPP / 8) = memRead m (r.dst + y * r.bpl + x * r.fmt.bitsPP / 8) := by
    rw [Nat.add_assoc]
    exact h _ (hd _ (row_offset_lt hy (r.fmt.packed_offset_lt hb hx)))
  simp only [scatterBits, hread]
  exact h.write _ _

theorem scatterPixel_agree (r : Raster) (cur : List Byte) {p row i : Nat} (hf : r.fmt.depth ∈ r.fmt.ct.depths)
    (hrow : row < passRows r.w r.h p) (hi : i < passWidth r.w p) (hd : ∀ j, j < r.rawLen → R (r.dst + j))
    (h : m.AgreeOn R m') : (scatterPixel r cur p row i m).AgreeOn R (scatterPixel r cur p row i m') := by
  have hy := pass_row_lt hrow
  have hx := pass_column_lt hi
  obtain ⟨hpos, -⟩ := r.fmt.bitsPP_pos_and_packed_or_whole hf
  unfold scatterPixel
  split
  · exact scatterBits_agree r cur i hpos hy hx hd h
  · exact h.fill _ _ _

theorem adam7Offset_succ (r : Raster) (p row : Nat) :
    adam7Offset r p (row + 1) = adam7Offset r p row + (1 + passBpl r.fmt r.w p) := by
  rw [adam7Offset, adam7Offset, Nat.succ_mul, Nat.add_assoc]

/-- A pass ends where the next one begins. -/
theorem adam7Offset_passRows (r : Raster) (p : Nat) : adam7Offset r p (passRows r.w r.h p) = adam7Offset r (p + 1) 0 := by
  simp [adam7Offset]

theorem adam7Offset_mono_row (r : Raster) (p : Nat) : Monotone (adam7Offset r p) :=
  monotone_nat_of_le_succ fun row => by rw [adam7Offset_succ]; exact Nat.le_add_right _ _

theorem adam7Offset_mono_pass (r : Raster) : Monotone (adam7Offset r · 0) :=
  monotone_nat_of_le_succ fun p => by rw [← adam7Offset_passRows]; exact adam7Offset_mono_row r p (Nat.zero_le _)

/-- The stream ends with its last pass (R232). -/
theorem adam7Len_eq (r : Raster) : adam7Len r = adam7Offset r 7 0 := by
  simp [adam7Len, adam7Offset]

/-- A pass row lies in the stream (R232). -/
theorem adam7Offset_le (r : Raster) {p row : Nat} (hp : p < 7) (hrow : row < passRows r.w r.h p) :
    adam7Offset r p row + (1 + passBpl r.fmt r.w p) ≤ adam7Len r :=
  calc adam7Offset r p row + (1 + passBpl r.fmt r.w p) = adam7Offset r p (row + 1) := (adam7Offset_succ r p row).symm
    _ ≤ adam7Offset r p (passRows r.w r.h p) := adam7Offset_mono_row r p hrow
    _ = adam7Offset r (p + 1) 0 := adam7Offset_passRows r p
    _ ≤ adam7Offset r 7 0 := adam7Offset_mono_pass r hp
    _ = adam7Len r := (adam7Len_eq r).symm

/-- The same place in the stream, line buffer and counters, on memories that agree. -/
def Adam7Work.Agree (R : Nat → Prop) (k k' : Adam7Work) : Prop := ∃ m', k' = { k with mem := m' } ∧ k.mem.AgreeOn R m'

theorem adam7Row_agree (r : Raster) {p row : Nat} {k : Adam7Work} (hf : r.fmt.depth ∈ r.fmt.ct.depths) (hp : p < 7)
    (hrow : row < passRows r.w r.h p) (hs : ∀ j, j < adam7Len r → R (r.src + j)) (hd : ∀ j, j < r.rawLen → R (r.dst + j))
    (hoff : k.off = adam7Offset r p row) {m' : Memory} (h : k.mem.AgreeOn R m') :
    EndAlike (Adam7Work.Agree R) (adam7Row r p row k) (adam7Row r p row { k with mem := m' }) := by
  have hlen := adam7Offset_le r hp hrow
  have htype : memRead m' (r.src + k.off) = memRead k.mem (r.src + k.off) := h _ (hs _ (by omega))
  have hcur : ∀ t, passCur m' k.lb (r.src + k.off) r.fmt.bytesPP row t (passBpl r.fmt r.w p) =
      passCur k.mem k.lb (r.src + k.off) r.fmt.bytesPP row t (passBpl r.fmt r.w p) := fun t =>
    passCur_agree k.lb r.fmt.bytesPP row t (fun x hx => Nat.add_assoc r.src _ _ ▸ hs _ (by omega)) h
  simp only [adam7Row, htype, hcur]
  split
  · exact ⟨rfl, m', rfl, h⟩
  · exact ⟨rfl, _, rfl, loop_related _ _ (Memory.AgreeOn R) _ h fun i _ _ hi h => scatterPixel_agree r _ hf hrow hi hd h⟩

theorem adam7Row_off {r : Raster} {p row : Nat} {k : Adam7Work} (h : (adam7Row r p row k).2 = none) :
    (adam7Row r p row k).1.off = k.off + (1 + passBpl r.fmt r.w p) := by
  simp only [adam7Row] at h ⊢
  split at h
  · cases h
  · rfl

theorem adam7Passes_agree (r : Raster) (lb : Ram 8) (hf : r.fmt.depth ∈ r.fmt.ct.depths)
    (hs : ∀ j, j < adam7Len r → R (r.src + j)) (hd : ∀ j, j < r.rawLen → R (r.dst + j)) (h : m.AgreeOn R m') :
    EndAlike (Adam7Work.Agree R) (adam7Passes r m lb) (adam7Passes r m' lb) := by
  refine (sweep_related_indexed _ _ (fun p k k' => k.off = adam7Offset r p 0 ∧ Adam7Work.Agree R k k') _ 7
    ⟨by simp [adam7Offset], _, rfl, h.fill _ _ _⟩ (fun _ _ _ hk => hk.2) ?_).1
  rintro p k k' hp ⟨hoff, hk⟩
  rw [← adam7Offset_passRows]
  refine sweep_related_indexed _ _ (fun row k k' => k.off = adam7Offset r p row ∧ Adam7Work.Agree R k k') _ _
    ⟨hoff, hk⟩ (fun _ _ _ hk => hk.2) ?_
  rintro row k _ hrow ⟨hoff, m', rfl, h⟩
  have hend := adam7Row_agree r hf hp hrow hs hd hoff h
  exact ⟨hend, fun hnone => ⟨by rw [adam7Row_off hnone, hoff, adam7Offset_succ], hend.2⟩⟩

/-! ### LZW_DECODE -/

theorem srcByte_agree {src : Region} (hs : ∀ j, j < src.len → R (src.base + j)) (h : m.AgreeOn R m') :
    srcByte m' src = srcByte m src := by
  funext j
  unfold srcByte
  split
  · next hj => rw [h _ (hs j hj)]
  · rfl

/-- The decoder reads MEM by `src_byte` only (R123). -/
theorem nextDataByte_congr {src : Region} (h : srcByte m' src = srcByte m src) (z : Lzw) :
    nextDataByte m' src z = nextDataByte m src z := by
  simp only [nextDataByte, lzwDataByte, h]

theorem fillBits_congr {src : Region} (h : srcByte m' src = srcByte m src) (n : Nat) (z : Lzw) :
    fillBits m' src n z = fillBits m src n z := by
  induction n generalizing z with
  | zero => rfl
  | succ n ih => simp only [fillBits, nextDataByte_congr h, ih]

theorem nextCodeBits_congr {src : Region} (h : srcByte m' src = srcByte m src) (z : Lzw) :
    nextCodeBits m' src z = nextCodeBits m src z := by
  simp only [nextCodeBits, fillBits_congr h]

/-- The same decoder and code table, on memories that agree. -/
def LzwRun.Agree (R : Nat → Prop) (k k' : LzwRun) : Prop := ∃ m', k' = { k with mem := m' } ∧ k.mem.AgreeOn R m'

theorem lzwOrdinary_agree (dst : Region) (code : Nat) {k k' : LzwRun} (hk : k.Agree R k') :
    EndAlike (LzwRun.Agree R) (lzwOrdinary dst k code) (lzwOrdinary dst k' code) := by
  obtain ⟨m', rfl, h⟩ := hk
  simp only [lzwOrdinary]
  split
  · split
    · exact ⟨rfl, m', rfl, h⟩
    · split
      · exact ⟨rfl, m', rfl, h⟩
      · exact ⟨rfl, _, rfl, h.fill _ _ _⟩
  · exact ⟨rfl, m', rfl, h⟩

theorem lzwCodeStep_agree {src : Region} (dst : Region) (hs : ∀ j, j < src.len → R (src.base + j)) {k k' : LzwRun}
    (hk : k.Agree R k') : EndAlike (LzwRun.Agree R) (lzwCodeStep src dst k) (lzwCodeStep src dst k') := by
  obtain ⟨m', rfl, h⟩ := hk
  simp only [lzwCodeStep, nextCodeBits_congr (srcByte_agree hs h)]
  split
  · exact ⟨rfl, m', rfl, h⟩
  · exact ⟨rfl, m', rfl, h⟩
  · split
    · exact ⟨rfl, m', rfl, h⟩
    · split
      · exact ⟨rfl, m', rfl, h⟩
      · exact lzwOrdinary_agree dst _ ⟨m', rfl, h⟩

theorem lzwLoop_agree {src : Region} (dst : Region) (hs : ∀ j, j < src.len → R (src.base + j)) (n : Nat) {k k' : LzwRun}
    (hk : k.Agree R k') : EndAlike (LzwRun.Agree R) (lzwLoop src dst n k) (lzwLoop src dst n k') := by
  induction n generalizing k k' with
  | zero => exact ⟨rfl, hk⟩
  | succ n ih =>
    obtain ⟨hend, hstep⟩ := lzwCodeStep_agree dst hs hk
    unfold lzwLoop
    rcases hx : lzwCodeStep src dst k with ⟨x, e⟩
    rcases hy : lzwCodeStep src dst k' with ⟨y, e'⟩
    rw [hx, hy] at hend hstep
    obtain rfl : e' = e := hend
    cases e' with
    | some e => exact ⟨rfl, hstep⟩
    | none => exact ih hstep

end

/-! ### Two runs of a command -/

/-- Two states show the same results, and their memories agree. -/
structure State.ResultsAgree (R : Nat → Prop) (t u : State) : Prop where
  status   : u.status = t.status
  outCount : u.outCount = t.outCount
  errInfo  : u.errInfo = t.errInfo
  crcState : u.crcState = t.crcState
  mem      : t.mem.AgreeOn R u.mem

section
variable {R : Nat → Prop} {t u : State} (h : State.ResultsAgree R t u)
include h

theorem State.ResultsAgree.raise (e : CmdError) : State.ResultsAgree R (t.raise e) (u.raise e) where
  status := by rw [State.raise_status, State.raise_status, h.status]
  outCount := h.outCount
  errInfo := rfl
  crcState := h.crcState
  mem := h.mem

theorem State.ResultsAgree.finish (flags : List Flag) : State.ResultsAgree R (t.finish flags) (u.finish flags) where
  status := by rw [State.finish_status, State.finish_status, h.status]
  outCount := h.outCount
  errInfo := h.errInfo
  crcState := h.crcState
  mem := h.mem

theorem State.ResultsAgree.conclude (out : Nat) (e : Option CmdError) (flags : List Flag) :
    State.ResultsAgree R (t.conclude out e flags) (u.conclude out e flags) := by
  have hout : State.ResultsAgree R (t.withOut out) (u.withOut out) := ⟨h.status, rfl, h.errInfo, h.crcState, h.mem⟩
  cases e with
  | none => exact hout.finish flags
  | some e => exact hout.raise e

theorem State.ResultsAgree.withCounters (c : Counters) : State.ResultsAgree R (t.withCounters c) (u.withCounters c) :=
  ⟨h.status, h.outCount, h.errInfo, h.crcState, h.mem⟩

theorem State.ResultsAgree.withLineBuf (lb : Ram 8) : State.ResultsAgree R (t.withLineBuf lb) (u.withLineBuf lb) :=
  ⟨h.status, h.outCount, h.errInfo, h.crcState, h.mem⟩

theorem State.ResultsAgree.withPackRow (row : List Byte) : State.ResultsAgree R (t.withPackRow row) (u.withPackRow row) :=
  ⟨h.status, h.outCount, h.errInfo, h.crcState, h.mem⟩

theorem State.ResultsAgree.withCrc (c : Word) : State.ResultsAgree R (t.withCrc c) (u.withCrc c) :=
  ⟨h.status, h.outCount, h.errInfo, rfl, h.mem⟩

/-- Start checks look at the latches alone, so they fail alike in two runs. -/
theorem State.ResultsAgree.checked (cs : List (Option CmdError)) {run run' : State}
    (hrun : firstError cs = none → State.ResultsAgree R run run') :
    State.ResultsAgree R (t.checked cs run) (u.checked cs run') := by
  cases hc : firstError cs with
  | some e =>
    rw [t.checked_of_some cs run e hc, u.checked_of_some cs run' e hc]
    exact h.raise e
  | none =>
    rw [t.checked_of_none cs run hc, u.checked_of_none cs run' hc]
    exact hrun hc

end

/-- The start of the second run: MEM is another one that agrees on `R`. -/
theorem State.withMem_resultsAgree {R : Nat → Prop} {s : State} {m : Memory} (h : s.mem.AgreeOn R m) :
    State.ResultsAgree R s (s.withMem m) := ⟨rfl, rfl, rfl, rfl, h⟩

/-- What the operation of a command made of MEM in the two runs. -/
theorem State.withMem_withMem_resultsAgree {R : Nat → Prop} {m₁ m₂ : Memory} (h : m₁.AgreeOn R m₂) (s : State) (m : Memory) :
    State.ResultsAgree R (s.withMem m₁) ((s.withMem m).withMem m₂) := ⟨rfl, rfl, rfl, rfl, h⟩

/-- Answers that are both next states agree. -/
def ResultsAlike (R : Nat → Prop) (x y : Result) : Prop := ∀ t u, x = .next t → y = .next u → State.ResultsAgree R t u

theorem resultsAlike_next {R : Nat → Prop} {t u : State} (h : State.ResultsAgree R t u) :
    ResultsAlike R (.next t) (.next u) := by
  rintro _ _ ⟨⟩ ⟨⟩
  exact h

/-! ### Each command -/

/-- However the loop ended, two runs that ended alike complete alike. -/
theorem lzwComplete_agree {R : Nat → Prop} (s : State) (m : Memory) {k k' : LzwRun} (hk : k.Agree R k') (e : LzwEnd) :
    ResultsAlike R (lzwComplete s k e) (lzwComplete (s.withMem m) k' e) := by
  obtain ⟨m', rfl, hm⟩ := hk
  have hlzw : State.ResultsAgree R (s.withLzw k) ((s.withMem m).withLzw { k with mem := m' }) := ⟨rfl, rfl, rfl, rfl, hm⟩
  cases e with
  | stream | overrun | error => exact resultsAlike_next (hlzw.conclude _ _ _)
  | unbounded => exact fun _ _ ht => by cases ht

/-- The addresses that command `i` declares (R267). -/
def Args.Declared (L : Args) (i : Instr) (a : Nat) : Prop :=
  (L.srcAddr.toNat ≤ a ∧ a < L.srcAddr.toNat + L.srcLen.toNat) ∨
  (L.dstAddr.toNat ≤ a ∧ a < L.dstAddr.toNat + L.dstLen.toNat) ∨
  (i = .expand ∧ L.ctypeBits = 3 ∧ L.plteAddr.toNat ≤ a ∧ a < L.plteAddr.toNat + 3 * L.plteCount.toNat) ∨
  (i = .expand ∧ L.ctypeBits = 3 ∧ L.trnsAddr.toNat ≤ a ∧ a < L.trnsAddr.toNat + L.trnsLen.toNat)

theorem Args.declared_src (L : Args) (i : Instr) {n : Nat} (hn : n ≤ L.srcLen.toNat) :
    ∀ j, j < n → L.Declared i (L.srcAddr.toNat + j) :=
  fun _ _ => .inl (by omega)

theorem Args.declared_dst (L : Args) (i : Instr) {n : Nat} (hn : n ≤ L.dstLen.toNat) :
    ∀ j, j < n → L.Declared i (L.dstAddr.toNat + j) :=
  fun _ _ => .inr (.inl (by omega))

/-- EXPAND of a palette image declares its tables. -/
theorem Args.tablesIn_declared {L : Args} {f : PixFmt} (hf : formatFor .expand L = some f) (hct : f.ct = .palette) :
    L.TablesIn (L.Declared .expand) := by
  obtain ⟨-, hcode, -⟩ := (formatFor_eq_some_iff_legal .expand L f).1 hf
  have hbits : L.ctypeBits = 3 := hcode ▸ (Ctype.eq_palette_iff f.ct).1 hct
  exact ⟨fun j _ => .inr (.inr (.inl ⟨rfl, hbits, by omega⟩)), fun j _ => .inr (.inr (.inr ⟨rfl, hbits, by omega⟩))⟩

/-- SRC_SHORT among the checks that passed gives a SRC long enough. -/
theorem srcNeeded_le_of_checks {L : Args} {cs : List (Option CmdError)} {needed : Nat} (h : firstError cs = none)
    (hs : srcShortCheck L needed ∈ cs) : needed ≤ L.srcLen.toNat :=
  (srcShortCheck_eq_none L needed).1 ((firstError_eq_none cs).1 h _ hs)

theorem srcShortCheck_mem_rasterChecks (p : Params) (L : Args) (a b : Nat) : srcShortCheck L a ∈ rasterChecks p L a b := by
  simp [rasterChecks]

section
variable {i : Instr} {s : State} {m : Memory} (h : s.mem.AgreeOn (s.latch.Declared i) m)
include h

theorem unfilterRun_agree (f : PixFmt) (hs : (s.latch.raster f).filteredLen ≤ s.latch.srcLen.toNat)
    (hd : (s.latch.raster f).rawLen ≤ s.latch.dstLen.toNat) :
    State.ResultsAgree (s.latch.Declared i) (unfilterRun s (s.latch.raster f)) (unfilterRun (s.withMem m) (s.latch.raster f)) := by
  obtain ⟨he, m', hk, hm⟩ := unfilterRows_agree (s.latch.raster f) (s.latch.declared_src i hs) (s.latch.declared_dst i hd) h
  simp only [unfilterRun, rowCounters, State.withMem_mem, State.withMem_counters, he, hk]
  exact ((State.withMem_withMem_resultsAgree hm s m).withCounters _).conclude _ _ _

theorem filterRun_agree (f : PixFmt) (code : Nat) (ft : FilterType) (hs : (s.latch.raster f).rawLen ≤ s.latch.srcLen.toNat) :
    State.ResultsAgree (s.latch.Declared i) (filterRun s (s.latch.raster f) code ft)
      (filterRun (s.withMem m) (s.latch.raster f) code ft) := by
  have hm := filterRows_agree (s.latch.raster f) code ft (s.latch.declared_src i hs) h
  exact ((State.withMem_withMem_resultsAgree hm s m).withCounters _).conclude _ none []

theorem packRun_agree (f : PixFmt) (hs : (s.latch.raster f).sampleBytes ≤ s.latch.srcLen.toNat) :
    State.ResultsAgree (s.latch.Declared i) (packRun s (s.latch.raster f)) (packRun (s.withMem m) (s.latch.raster f)) := by
  obtain ⟨he, m', hk, hm⟩ := packRows_agree (s.latch.raster f) (s.latch.declared_src i hs) h
  simp only [packRun, State.withMem_mem, State.withMem_counters, he, hk]
  exact (((State.withMem_withMem_resultsAgree hm s m).withPackRow _).withCounters _).conclude _ _ _

theorem adam7Run_agree {f : PixFmt} (hf : f.depth ∈ f.ct.depths) (hs : adam7Len (s.latch.raster f) ≤ s.latch.srcLen.toNat)
    (hd : (s.latch.raster f).rawLen ≤ s.latch.dstLen.toNat) :
    State.ResultsAgree (s.latch.Declared i) (adam7Run s (s.latch.raster f)) (adam7Run (s.withMem m) (s.latch.raster f)) := by
  obtain ⟨he, m', hk, hm⟩ :=
    adam7Passes_agree (s.latch.raster f) s.lineBuf hf (s.latch.declared_src i hs) (s.latch.declared_dst i hd) h
  simp only [adam7Run, State.withMem_mem, State.withMem_lineBuf, State.withMem_counters, he, hk]
  exact (((State.withMem_withMem_resultsAgree hm s m).withLineBuf _).withCounters _).conclude _ _ _

theorem crcUpdateRun_agree : State.ResultsAgree (s.latch.Declared i) (crcUpdateRun s) (crcUpdateRun (s.withMem m)) := by
  have hcrc : crcOver m s.latch.srcAddr.toNat s.latch.srcLen.toNat s.crcState =
      crcOver s.mem s.latch.srcAddr.toNat s.latch.srcLen.toNat s.crcState :=
    loop_congr _ _ _ _ fun k hk => by rw [h _ (s.latch.declared_src i le_rfl k hk)]
  simp only [crcUpdateRun, State.withMem_mem, State.withMem_latch, State.withMem_crcState, State.withMem_counters, hcrc]
  exact (((State.withMem_resultsAgree h).withCrc _).withCounters _).conclude _ none []

theorem lzwDecodeFrom_agree (n : Nat) :
    ResultsAlike (s.latch.Declared i) (lzwDecodeFrom s n) (lzwDecodeFrom (s.withMem m) n) := by
  obtain ⟨he, hk⟩ := lzwLoop_agree (src := s.latch.src) s.latch.dst (s.latch.declared_src i le_rfl) (lzwBound s.latch.src)
    (k := ⟨Lzw.init n, s.codeTable, s.mem⟩) ⟨m, rfl, h⟩
  simp only [lzwDecodeFrom, State.withMem_latch, State.withMem_codeTable, State.withMem_mem, he]
  exact lzwComplete_agree s m hk _

theorem execLzwDecode_agree : ResultsAlike (s.latch.Declared i) (execLzwDecode s) (execLzwDecode (s.withMem m)) := by
  have hs := State.withMem_resultsAgree h
  have hbyte := srcByte_agree (src := s.latch.src) (s.latch.declared_src i le_rfl) h
  simp only [execLzwDecode, lzwRun, State.withMem_latch, State.withMem_params, State.withMem_mem, hbyte]
  split
  · exact resultsAlike_next (hs.raise _)
  · split
    · exact resultsAlike_next (hs.conclude _ _ _)
    · split
      · exact resultsAlike_next (hs.conclude _ _ _)
      · exact lzwDecodeFrom_agree h _

end

theorem expandRun_agree {s : State} {m : Memory} (h : s.mem.AgreeOn (s.latch.Declared .expand) m) {f : PixFmt}
    (hf : formatFor .expand s.latch = some f) (hs : (s.latch.raster f).rawLen ≤ s.latch.srcLen.toNat) :
    State.ResultsAgree (s.latch.Declared .expand) (expandRun s (s.latch.raster f))
      (expandRun (s.withMem m) (s.latch.raster f)) := by
  obtain ⟨he, m', hk, hm⟩ := expandPixels_agree s.latch (s.latch.raster f) (formatFor_depth_mem hf)
    (s.latch.declared_src .expand hs) (Args.tablesIn_declared hf) h
  simp only [expandRun, State.withMem_mem, State.withMem_latch, State.withMem_counters, he, hk]
  exact ((State.withMem_withMem_resultsAgree hm s m).withCounters _).conclude _ _ _

/-- Two runs of a command over memories that agree on the regions it declares. -/
theorem exec_agree {i : Instr} {s : State} {m : Memory} (h : s.mem.AgreeOn (s.latch.Declared i) m) :
    ResultsAlike (s.latch.Declared i) (exec i s) (exec i (s.withMem m)) := by
  have hs := State.withMem_resultsAgree h
  cases i with
  | nop => exact resultsAlike_next (hs.conclude 0 none [])
  | lzwDecode => exact execLzwDecode_agree h
  | crcInit => exact resultsAlike_next ((hs.withCrc _).conclude 0 none [])
  | crcUpdate => exact resultsAlike_next (hs.checked _ fun _ => crcUpdateRun_agree h)
  | unfilter =>
    simp only [exec, execUnfilter, State.withMem_latch, State.withMem_params]
    split
    · exact resultsAlike_next (hs.raise _)
    · next f _ =>
      exact resultsAlike_next (hs.checked _ fun hc =>
        unfilterRun_agree h f (srcNeeded_le_of_checks hc (srcShortCheck_mem_rasterChecks _ _ _ _))
          (dstNeeded_le_of_checks hc (dstShortCheck_mem_rasterChecks _ _ _ _)))
  | filter ftype =>
    simp only [exec, execFilter, State.withMem_latch, State.withMem_params]
    split
    · exact resultsAlike_next (hs.raise _)
    · next ft _ =>
      split
      · exact resultsAlike_next (hs.raise _)
      · next f _ =>
        exact resultsAlike_next (hs.checked _ fun hc =>
          filterRun_agree h f ftype ft (srcNeeded_le_of_checks hc (srcShortCheck_mem_rasterChecks _ _ _ _)))
  | expand =>
    simp only [exec, execExpand, State.withMem_latch, State.withMem_params]
    split
    · exact resultsAlike_next (hs.raise _)
    · next f hf =>
      exact resultsAlike_next (hs.checked _ fun hc =>
        expandRun_agree h hf (srcNeeded_le_of_checks hc (by simp [expandChecks])))
  | pack =>
    simp only [exec, execPack, State.withMem_latch, State.withMem_params]
    split
    · exact resultsAlike_next (hs.raise _)
    · next f _ =>
      exact resultsAlike_next (hs.checked _ fun hc =>
        packRun_agree h f (srcNeeded_le_of_checks hc (srcShortCheck_mem_rasterChecks _ _ _ _)))
  | adam7Deinterlace =>
    simp only [exec, execAdam7, State.withMem_latch, State.withMem_params]
    split
    · exact resultsAlike_next (hs.raise _)
    · next f hf =>
      exact resultsAlike_next (hs.checked _ fun hc =>
        adam7Run_agree h (formatFor_depth_mem hf)
          (srcNeeded_le_of_checks hc (List.mem_append_left _ (srcShortCheck_mem_rasterChecks _ _ _ _)))
          (dstNeeded_le_of_checks hc (List.mem_append_left _ (dstShortCheck_mem_rasterChecks _ _ _ _))))

/-- Settles O28: the two runs agree on every declared address, DST's among them. -/
theorem commandsReadOnlyTheirRegions : Obligations.CommandsReadOnlyTheirRegions := by
  unfold Obligations.CommandsReadOnlyTheirRegions
  intro i s t u m h ht hu
  obtain ⟨hstatus, hout, herr, hcrc, hmem⟩ := exec_agree (i := i) (s := s) h t u ht hu
  exact ⟨hstatus, hout, herr, hcrc, fun a hlow hhigh => hmem a (.inr (.inl ⟨hlow, hhigh⟩))⟩

end Sys2Proof.Machine
end

section
/-! SUPPORT. Command words (R80 to R84): a word and its three fields as numbers, the decoder and the encoder said by fields, and the rows
of the opcode table. With them what a word decodes to, and which words are illegal. -/

namespace Sys2Proof

/-! ### The fields of a word (R80) -/

theorem opField_eq (w : Word) : opField w = w.toNat % 16 := by
  rw [opField, BitVec.extractLsb'_toNat, Nat.shiftRight_zero]

theorem ftypeField_eq (w : Word) : ftypeField w = w.toNat / 16 % 8 := by
  rw [ftypeField, BitVec.extractLsb'_toNat, Nat.shiftRight_eq_div_pow]

theorem resField_eq (w : Word) : resField w = w.toNat / 128 := by
  rw [resField, BitVec.extractLsb'_toNat, Nat.shiftRight_eq_div_pow]
  have := w.isLt
  omega

theorem ftypeField_lt (w : Word) : ftypeField w < 8 := (w.extractLsb' 4 3).isLt

/-- The three fields cover the word: no bit is outside them. -/
theorem word_eq_iff_fields (v w : Word) :
    v = w ↔ resField v = resField w ∧ opField v = opField w ∧ ftypeField v = ftypeField w := by
  rw [← BitVec.toNat_inj]
  simp only [resField_eq, opField_eq, ftypeField_eq]
  omega

/-- A word put together from an opcode and a filter type has them as its fields, and RES 0. -/
theorem fields_ofNat {op ftype : Nat} (hop : op < 16) (hft : ftype < 8) :
    resField (BitVec.ofNat 32 (op + ftype * 16)) = 0 ∧ opField (BitVec.ofNat 32 (op + ftype * 16)) = op ∧
      ftypeField (BitVec.ofNat 32 (op + ftype * 16)) = ftype := by
  simp only [resField_eq, opField_eq, ftypeField_eq, BitVec.toNat_ofNat]
  omega

/-! ### Commands, their opcodes and filter types (R81, R82) -/

theorem opcodeOf_lt (i : Instr) : opcodeOf i < 9 := by cases i <;> simp [opcodeOf]

/-- Well-formed means that FTYPE fits its field. -/
theorem wf_iff_ftypeOf_lt (i : Instr) : i.wf = true ↔ ftypeOf i < 8 := by
  cases i <;> simp [Instr.wf, ftypeOf]

theorem eq_filter_of_opcodeOf {i : Instr} (h : opcodeOf i = 5) : i = .filter (ftypeOf i) := by
  cases i with
  | filter ftype => rfl
  | _ => cases h

/-- FTYPE is 0 outside FILTER. -/
theorem ftypeOf_eq_zero {i : Instr} (h : opcodeOf i ≠ 5) : ftypeOf i = 0 := by
  cases i with
  | filter ftype => exact absurd rfl h
  | _ => rfl

theorem commandOf_opcodeOf (i : Instr) : commandOf (opcodeOf i) (ftypeOf i) = some i := by cases i <;> rfl

/-- FTYPE matters to FILTER only. -/
theorem commandOf_eq_some {op ftype : Nat} {i : Instr} (h : commandOf op ftype = some i) :
    opcodeOf i = op ∧ (op = 5 → ftypeOf i = ftype) := by
  unfold commandOf at h
  split at h <;> cases h <;> simp [opcodeOf, ftypeOf]

/-- The reserved opcodes are those from 9 up. -/
theorem commandOf_eq_none_iff (op ftype : Nat) : commandOf op ftype = none ↔ 9 ≤ op := by
  constructor
  · intro h
    by_contra hlt
    have hop : op < 9 := by omega
    interval_cases op <;> cases h
  · intro h
    cases hc : commandOf op ftype with
    | none => rfl
    | some i =>
      have hop := (commandOf_eq_some hc).1
      have hlt := opcodeOf_lt i
      omega

/-! ### The decoder and the encoder by fields -/

/-- A word decodes to a command exactly when RES is 0 and OP and FTYPE are the command's. -/
theorem decode_eq_ok_iff (w : Word) (i : Instr) :
    decode w = .ok i ↔ resField w = 0 ∧ opField w = opcodeOf i ∧ ftypeField w = ftypeOf i := by
  unfold decode
  constructor
  · intro h
    split at h
    · cases h
    next hres =>
    split at h
    · cases h
    next j hj =>
    split at h
    · cases h
    next hstray =>
    cases h
    obtain ⟨hop, hft⟩ := commandOf_eq_some hj
    refine ⟨not_not.1 hres, hop.symm, ?_⟩
    by_cases h5 : opField w = 5
    · exact (hft h5).symm
    · rw [ftypeOf_eq_zero (hop.symm ▸ h5)]
      exact not_not.1 fun hne => hstray ⟨h5, hne⟩
  · rintro ⟨hres, hop, hft⟩
    have hlegal : ¬ (opcodeOf i ≠ 5 ∧ ftypeOf i ≠ 0) := fun ⟨h5, hne⟩ => hne (ftypeOf_eq_zero h5)
    simp only [hres, hop, hft, commandOf_opcodeOf, if_neg hlegal, ne_eq, not_true_eq_false, if_false]

/-- The illegal words (R83), one alternative per reason. -/
theorem decode_error_iff_fields (w : Word) :
    (∃ why, decode w = .error why) ↔ resField w ≠ 0 ∨ 9 ≤ opField w ∨ (opField w ≠ 5 ∧ ftypeField w ≠ 0) := by
  rw [← commandOf_eq_none_iff (opField w) (ftypeField w)]
  unfold decode
  by_cases hres : resField w = 0
  · cases commandOf (opField w) (ftypeField w) with
    | none => simp [hres]
    | some i => by_cases hstray : opField w ≠ 5 ∧ ftypeField w ≠ 0 <;> simp [hres, hstray]
  · simp [hres]

theorem decode_error_iff (w : Word) :
    (∃ why, decode w = .error why) ↔
      (w.toNat / 128 ≠ 0 ∨ 9 ≤ w.toNat % 16 ∨ (w.toNat % 16 ≠ 5 ∧ w.toNat / 16 % 8 ≠ 0)) := by
  rw [decode_error_iff_fields, resField_eq, opField_eq, ftypeField_eq]

/-- The word of a well-formed command is the one with the command's fields and RES 0. -/
theorem encode_eq_iff {i : Instr} (h : i.wf = true) (w : Word) :
    encode i = w ↔ resField w = 0 ∧ opField w = opcodeOf i ∧ ftypeField w = ftypeOf i := by
  obtain ⟨hres, hop, hft⟩ :=
    fields_ofNat (Nat.lt_trans (opcodeOf_lt i) (by decide)) ((wf_iff_ftypeOf_lt i).1 h)
  rw [encode, word_eq_iff_fields, hres, hop, hft, eq_comm (a := 0), eq_comm (a := opcodeOf i), eq_comm (a := ftypeOf i)]

/-- Settles O1: `decode` and `encode` are said by the same fields, and FTYPE of a decoded command fits because it comes from a field. -/
theorem decodeAndEncodeAgree : Obligations.DecodeAndEncodeAgree := by
  unfold Obligations.DecodeAndEncodeAgree
  intro w i
  rw [decode_eq_ok_iff]
  constructor
  · intro h
    obtain ⟨-, -, hft⟩ := id h
    have hwf : i.wf = true := (wf_iff_ftypeOf_lt i).2 (hft ▸ ftypeField_lt w)
    exact ⟨hwf, (encode_eq_iff hwf w).2 h⟩
  · rintro ⟨hwf, hw⟩
    exact (encode_eq_iff hwf w).1 hw

theorem decode_encode {i : Instr} (h : i.wf = true) : decode (encode i) = .ok i :=
  (decodeAndEncodeAgree (encode i) i).2 ⟨h, rfl⟩

/-- Settles O3: the legal words are encodings; the others show the three reasons of R83. -/
theorem writtenWordsDecode : Obligations.WrittenWordsDecode := by
  unfold Obligations.WrittenWordsDecode
  exact ⟨decode_encode (i := .nop) rfl, decode_encode (i := .lzwDecode) rfl, decode_encode (i := .crcUpdate) rfl,
    decode_encode (i := .filter 4) rfl, decode_encode (i := .filter 7) rfl, decode_encode (i := .adam7Deinterlace) rfl,
    by decide, by decide, by decide⟩

/-! ### The opcode table (R84) -/

/-- A row is fixed by its command's opcode: only FILTER's mask leaves FTYPE out. -/
theorem rowOf_eq (i : Instr) :
    rowOf i = ⟨if opcodeOf i = 5 then 0xFFFFFF8F#32 else 0xFFFFFFFF#32, BitVec.ofNat 32 (opcodeOf i)⟩ := by
  cases i <;> rfl

theorem rowOf_congr {i j : Instr} (h : opcodeOf i = opcodeOf j) : rowOf i = rowOf j := by
  rw [rowOf_eq, rowOf_eq, h]

theorem mem_opcodeTable_iff (r : OpcodeRow) : r ∈ opcodeTable ↔ ∃ i, rowOf i = r := by
  constructor
  · intro h
    simp only [opcodeTable, List.mem_cons, List.not_mem_nil, or_false] at h
    rcases h with h | h | h | h | h | h | h | h | h <;> exact ⟨_, h.symm⟩
  · rintro ⟨i, rfl⟩
    cases i with
    | filter ftype => exact show rowOf (.filter 0) ∈ opcodeTable by decide
    | _ => decide

/-- FILTER's mask keeps RES and OP and drops FTYPE. -/
theorem fields_and_filterMask (w : Word) :
    resField (w &&& 0xFFFFFF8F#32) = resField w ∧ opField (w &&& 0xFFFFFF8F#32) = opField w ∧ ftypeField (w &&& 0xFFFFFF8F#32) = 0 := by
  have hres : (0xFFFFFF8F#32).extractLsb' 7 25 = BitVec.allOnes 25 := by decide
  have hop : (0xFFFFFF8F#32).extractLsb' 0 4 = BitVec.allOnes 4 := by decide
  have hft : (0xFFFFFF8F#32).extractLsb' 4 3 = 0#3 := by decide
  simp only [resField, opField, ftypeField, BitVec.extractLsb'_and, hres, hop, hft, BitVec.and_allOnes, BitVec.and_zero,
    BitVec.toNat_ofNat, Nat.zero_mod, and_self]

/-- Which words a row selects, by fields. -/
theorem rowOf_selects_iff (i : Instr) (w : Word) :
    (rowOf i).selects w = true ↔ resField w = 0 ∧ opField w = opcodeOf i ∧ (opcodeOf i ≠ 5 → ftypeField w = 0) := by
  have hpattern := fields_ofNat (ftype := 0) (Nat.lt_trans (opcodeOf_lt i) (by decide)) (by decide)
  rw [Nat.zero_mul, Nat.add_zero] at hpattern
  obtain ⟨hres, hop, hft⟩ := hpattern
  obtain ⟨hmres, hmop, hmft⟩ := fields_and_filterMask w
  rw [OpcodeRow.selects, beq_iff_eq, rowOf_eq, word_eq_iff_fields, hres, hop, hft]
  by_cases h5 : opcodeOf i = 5
  · simp [h5, hmres, hmop, hmft]
  · have hmask : w &&& 0xFFFFFFFF#32 = w := BitVec.and_allOnes
    simp [h5, hmask]

/-- The row of the command a word decodes to selects the word. -/
theorem rowOf_selects_of_decode {w : Word} {i : Instr} (h : decode w = .ok i) : (rowOf i).selects w = true := by
  obtain ⟨hres, hop, hft⟩ := (decode_eq_ok_iff w i).1 h
  exact (rowOf_selects_iff i w).2 ⟨hres, hop, fun h5 => hft.trans (ftypeOf_eq_zero h5)⟩

/-- A word that a row selects decodes to a command of that row: FILTER with the word's own FTYPE, or the row's one command. -/
theorem decode_of_rowOf_selects {w : Word} {j : Instr} (h : (rowOf j).selects w = true) :
    ∃ i, decode w = .ok i ∧ rowOf i = rowOf j := by
  obtain ⟨hres, hop, hft⟩ := (rowOf_selects_iff j w).1 h
  by_cases h5 : opcodeOf j = 5
  · exact ⟨.filter (ftypeField w), (decode_eq_ok_iff _ _).2 ⟨hres, hop.trans h5, rfl⟩, rowOf_congr h5.symm⟩
  · exact ⟨j, (decode_eq_ok_iff _ _).2 ⟨hres, hop, (hft h5).trans (ftypeOf_eq_zero h5).symm⟩, rfl⟩

/-- Settles O2: decoding and the rows are both said by fields, and a row is fixed by its opcode, so rows are disjoint. -/
theorem decodeIsTheOpcodeTable : Obligations.DecodeIsTheOpcodeTable := by
  unfold Obligations.DecodeIsTheOpcodeTable
  intro w
  simp only [mem_opcodeTable_iff]
  refine ⟨decode_error_iff w, fun i hi => ?_, ?_, ?_⟩
  · obtain ⟨-, hop, hft⟩ := (decode_eq_ok_iff w i).1 hi
    rw [← opField_eq, ← ftypeField_eq]
    refine ⟨hop.symm, fun h5 => ?_, ⟨i, rfl⟩, rowOf_selects_of_decode hi⟩
    rw [hft]
    exact eq_filter_of_opcodeOf (hop.symm.trans h5)
  · rintro r ⟨j, rfl⟩ hsel
    exact decode_of_rowOf_selects hsel
  · rintro r ⟨i, rfl⟩ q ⟨j, rfl⟩ hi hj
    obtain ⟨-, hiop, -⟩ := (rowOf_selects_iff i w).1 hi
    obtain ⟨-, hjop, -⟩ := (rowOf_selects_iff j w).1 hj
    exact rowOf_congr (hiop.symm.trans hjop)

end Sys2Proof
end

section
/-! SUPPORT. Words the block refuses (R82, R83), by what `raise` leaves; and the polling of STATUS (R88). -/

namespace Sys2Proof.Machine

/-! ### What `raise` leaves (R262) -/

theorem State.raise_failedWith (s : State) (e : CmdError) : State.failedWith s (s.raise e) e.code e.info s.outCount.toNat :=
  ⟨rfl, rfl, by simp⟩

theorem State.raise_sameUnits (s : State) (e : CmdError) : State.SameUnits s (s.raise e) := ⟨rfl, rfl, rfl, rfl⟩

theorem State.raise_sameRest (s : State) (e : CmdError) : State.sameRest s (s.raise e) := ⟨s.raise_sameHostSide e, rfl⟩

/-! ### Refused words -/

/-- Settles O5: the start of R260, the steps of waiting, then the completion step of an illegal word. -/
theorem illegalWordCompletesWithError : Obligations.IllegalWordCompletesWithError := by
  unfold Obligations.IllegalWordCompletesWithError
  intro s w hr hb hq hw
  obtain ⟨why, hwhy⟩ := (decode_error_iff w).2 hw
  have hstart : Sys2Proof.core.step s = .next ((s.withQueue []).start w) := step_cmd_of_idle hr hb hq
  obtain ⟨-, hillegal⟩ := runningCommandCompletes ((s.withQueue []).start w) rfl hr rfl
  refine ⟨_, (core_run_succ_of_next _ hstart).trans (hillegal why hwhy), rfl, ?_, rfl, rfl, rfl, rfl, rfl, rfl, rfl, rfl,
    ⟨rfl, rfl, rfl, rfl⟩⟩
  exact BitVec.ofNat_toNat 32 w

theorem FilterType.ofCode_above_four {code : Nat} (h : 4 < code) : FilterType.ofCode code = Option.none := by
  obtain ⟨k, rfl⟩ : ∃ k, code = k + 5 := ⟨code - 5, by omega⟩
  rfl

/-- FILTER looks at its filter type before anything else (R265). -/
theorem exec_filter_above_four {code : Nat} (h : 4 < code) (s : State) :
    exec (.filter code) s = .next (s.raise (.filterType code)) := by
  rw [exec, execFilter, FilterType.ofCode_above_four h]

/-- Settles O48. -/
theorem filterRefusesTypesAboveFour : Obligations.FilterRefusesTypesAboveFour := by
  unfold Obligations.FilterRefusesTypesAboveFour
  intro s code h
  exact ⟨_, exec_filter_above_four h s, s.raise_failedWith _, rfl, s.raise_sameRest _, s.raise_sameUnits _⟩

/-! ### WAIT (R88) -/

/-- A `WAIT` is a read of STATUS; it stays at the head of the queue while BUSY = 1. -/
theorem step_wait {s : State} {rest : List HostReq} (h : s.hostReady) (hq : s.hostQ = .wait :: rest) :
    step s = .next ((s.ticked (if s.status.busy then .wait :: rest else rest)).portRead (offsetOf .status)) := by
  rw [step_serves h hq rfl, State.serve]
  cases hb : s.status.busy with
  | true => simp [State.ticked, hb, ← hq]
  | false => simp [State.ticked, State.withQueue, hb]

/-- Settles O13: a read of STATUS is exact, BUSY or not (R51). -/
theorem waitPollsStatus : Obligations.WaitPollsStatus := by
  unfold Obligations.WaitPollsStatus
  intro s rest h hq
  rw [step_wait h hq, State.portRead_exact (Bool.and_false _)]
  rfl

end Sys2Proof.Machine
end

section
/-! SUPPORT. The start checks (R265): the model's lists of checks against the claims', and the first failure of each command. -/

namespace Sys2Proof.Machine

/-! ### One check -/

/-- A check of the model answers for a check of the claims: it is passed under the same condition, and a failure records the
same code and value. -/
def Records (check : Option CmdError) (c : StartCheck) : Prop :=
  (check = none ↔ c.passes) ∧ ∀ e, check = some e → e.code = c.code ∧ e.info = c.info

theorem records_of_eq_none_or_eq_some {check : Option CmdError} {e : CmdError} {passes : Prop}
    (hcases : check = none ∨ check = some e) (hpass : check = none ↔ passes) : Records check ⟨passes, e.code, e.info⟩ := by
  refine ⟨hpass, fun e' he' => ?_⟩
  obtain rfl | rfl := hcases <;> cases he'
  exact ⟨rfl, rfl⟩

theorem rangeCheck_records (p : Params) (id : RegionId) (r : Region) :
    Records (rangeCheck p id r) ⟨InMem p r.base r.len, 0x02, id.code⟩ :=
  records_of_eq_none_or_eq_some (e := .range id) (ite_eq_or_eq _ _ _) (rangeCheck_eq_none p id r)

theorem overlapCheck_records (id : RegionId) (r d : Region) :
    Records (overlapCheck id r d) ⟨Apart r.base r.len d.base d.len, 0x03, id.code⟩ :=
  records_of_eq_none_or_eq_some (e := .overlap id) (ite_eq_or_eq _ _ _).symm (overlapCheck_eq_none id r d)

theorem srcShortCheck_records (L : Args) (n : Nat) : Records (srcShortCheck L n) ⟨n ≤ L.srcLen.toNat, 0x05, n⟩ :=
  records_of_eq_none_or_eq_some (e := .srcShort n) (ite_eq_or_eq _ _ _).symm (srcShortCheck_eq_none L n)

theorem dstShortCheck_records (L : Args) (n : Nat) : Records (dstShortCheck L n) ⟨n ≤ L.dstLen.toNat, 0x06, n⟩ :=
  records_of_eq_none_or_eq_some (e := .dstShort n) (ite_eq_or_eq _ _ _).symm (dstShortCheck_eq_none L n)

theorem lineBufCheck_records (p : Params) (n : Nat) : Records (lineBufCheck p n) ⟨n ≤ p.lineBufBytes, 0x0C, n⟩ :=
  records_of_eq_none_or_eq_some (e := .lineBuf n) (ite_eq_or_eq _ _ _).symm (lineBufCheck_eq_none p n)

/-! ### The lists of checks -/

theorem srcDstChecks_record (p : Params) (L : Args) : List.Forall₂ Records (srcDstChecks p L) (srcAndDstChecks p L) :=
  .cons (rangeCheck_records p .src L.src) <| .cons (rangeCheck_records p .dst L.dst) <|
    .cons (overlapCheck_records .src L.src L.dst) .nil

theorem lengthChecks_record (L : Args) (srcNeeded dstNeeded : Nat) :
    List.Forall₂ Records [srcShortCheck L srcNeeded, dstShortCheck L dstNeeded] (lengthChecks L srcNeeded dstNeeded) :=
  .cons (srcShortCheck_records L srcNeeded) <| .cons (dstShortCheck_records L dstNeeded) .nil

theorem rasterChecks_record (p : Params) (L : Args) (srcNeeded dstNeeded : Nat) :
    List.Forall₂ Records (rasterChecks p L srcNeeded dstNeeded) (srcAndDstChecks p L ++ lengthChecks L srcNeeded dstNeeded) :=
  List.rel_append (srcDstChecks_record p L) (lengthChecks_record L srcNeeded dstNeeded)

/-- PLTE and TRNS are checked for palette images only (R267). -/
theorem expandChecks_record (p : Params) (L : Args) (r : Raster) (hct : r.fmt.ct = .palette ↔ L.ctypeBits = 3) :
    List.Forall₂ Records (expandChecks p L r)
      ((if L.ctypeBits = 3 then paletteChecks p L else srcAndDstChecks p L) ++ lengthChecks L r.rawLen (4 * r.w * r.h)) := by
  refine List.rel_append ?_ (lengthChecks_record L _ _)
  simp only [hct]
  split
  · exact .cons (rangeCheck_records p .src L.src) <| .cons (rangeCheck_records p .dst L.dst) <|
      .cons (rangeCheck_records p .plte L.plte) <| .cons (rangeCheck_records p .trns L.trns) <|
      .cons (overlapCheck_records .src L.src L.dst) <| .cons (overlapCheck_records .plte L.plte L.dst) <|
      .cons (overlapCheck_records .trns L.trns L.dst) .nil
  · exact srcDstChecks_record p L

/-! ### The first failure -/

/-- `t` is `s` after the first failing check of a list, if one fails: the error recorded has its code and value (R265). -/
def State.RaisesFirst (s t : State) (checks : List StartCheck) : Prop :=
  ∀ before c after, checks = before ++ c :: after → (∀ k ∈ before, k.passes) → ¬ c.passes →
    ∃ e : CmdError, t = s.raise e ∧ e.code = c.code ∧ e.info = c.info

section
variable {s t : State} {c : StartCheck} {checks : List StartCheck}

theorem State.RaisesFirst.nil : State.RaisesFirst s t [] := fun before c after h => by simp at h

theorem State.RaisesFirst.cons (hfail : ¬ c.passes → ∃ e : CmdError, t = s.raise e ∧ e.code = c.code ∧ e.info = c.info)
    (hpass : c.passes → State.RaisesFirst s t checks) : State.RaisesFirst s t (c :: checks) := by
  intro before k after heq hbefore hk
  cases before with
  | nil =>
    obtain ⟨rfl, -⟩ := List.cons.inj heq
    exact hfail hk
  | cons k' before =>
    obtain ⟨rfl, htail⟩ := List.cons.inj heq
    exact hpass (hbefore c List.mem_cons_self) before k after htail (fun j hj => hbefore j (List.mem_cons_of_mem _ hj)) hk

/-- `checked` raises the error of the first check that fails. -/
theorem State.checked_raisesFirst {cs : List (Option CmdError)} (run : State) (h : List.Forall₂ Records cs checks) :
    State.RaisesFirst s (s.checked cs run) checks := by
  induction h with
  | nil => exact .nil
  | @cons check c cs checks hc _ ih =>
    obtain ⟨hpass, hfail⟩ := hc
    cases check with
    | none => exact .cons (fun h => absurd (hpass.1 rfl) h) fun _ => ih
    | some e => exact .cons (fun _ => ⟨e, rfl, hfail e rfl⟩) fun h => absurd (hpass.2 h) (by simp)

end

/-! ### The checks of FTYPE and FORMAT -/

theorem LegalPair.exists_ctype {ct d : Nat} (h : LegalPair ct d) : ∃ x : Ctype, x.code = ct := by
  obtain ⟨rfl, -⟩ | ⟨rfl, -⟩ | ⟨rfl, -⟩ | ⟨rfl, -⟩ | ⟨rfl, -⟩ := h
  exacts [⟨.gray, rfl⟩, ⟨.rgb, rfl⟩, ⟨.palette, rfl⟩, ⟨.grayAlpha, rfl⟩, ⟨.rgba, rfl⟩]

/-- A legal FORMAT is accepted: the colour type that its CTYPE names, with its other fields. -/
theorem FormatLegal.exists_formatFor {c : FormatUser} {L : Args} (h : FormatLegal c L) : ∃ f, formatFor c L = some f := by
  have ⟨_, hpair, _⟩ := h
  obtain ⟨ct, hct⟩ := hpair.exists_ctype
  exact ⟨⟨ct, L.depthBits, decide (L.format.toNat / 2 ^ 16 % 2 = 1)⟩,
    (formatFor_eq_some_iff_legal c L _).2 ⟨h, hct, rfl, decide_eq_true_iff⟩⟩

theorem not_formatLegal_of_formatFor {c : FormatUser} {L : Args} (h : formatFor c L = none) : ¬ FormatLegal c L := by
  intro hlegal
  obtain ⟨f, hf⟩ := hlegal.exists_formatFor
  rw [h] at hf
  cases hf

/-- A command that reads FORMAT: it raises FORMAT, or its checks from RANGE on are those of an accepted format. -/
theorem State.raisesFirst_of_format {c : FormatUser} {s t : State} {checks : List StartCheck} {after : PixFmt → State}
    (h : (formatFor c s.latch = none ∧ t = s.raise (.format s.latch.format)) ∨
      ∃ f, formatFor c s.latch = some f ∧ t = after f)
    (hafter : ∀ f, formatFor c s.latch = some f → State.RaisesFirst s (after f) checks) :
    State.RaisesFirst s t (formatCheck c s.latch :: checks) := by
  obtain ⟨hf, rfl⟩ | ⟨f, hf, rfl⟩ := h
  · exact .cons (fun _ => ⟨_, rfl, rfl, rfl⟩) fun hlegal => absurd hlegal (not_formatLegal_of_formatFor hf)
  · obtain ⟨hlegal, -⟩ := (formatFor_eq_some_iff_legal c s.latch f).1 hf
    exact .cons (fun hillegal => absurd hlegal hillegal) fun _ => hafter f hf

theorem FilterType.ofCode_eq_none_iff (code : Nat) : FilterType.ofCode code = Option.none ↔ ¬ code ≤ 4 := by
  refine ⟨fun h hle => ?_, fun h => ofCode_above_four (not_le.1 h)⟩
  interval_cases code <;> cases h

/-! ### The needed lengths in numbers (R161, R170, R195, R210, R233) -/

section
variable {c : FormatUser} {L : Args} {f : PixFmt} (h : formatFor c L = some f)
include h

theorem formatFor_bpl (w : Nat) : f.bpl w = L.bytesFor w := by
  obtain ⟨-, hquantities⟩ := formatAcceptedIffLegal
  obtain ⟨-, -, hbpl⟩ := hquantities c L f h
  exact hbpl w

theorem formatFor_rawLen : (L.raster f).rawLen = L.rawBytes := by
  rw [Raster.rawLen, Raster.bpl, Args.rawBytes, ← formatFor_bpl h]
  rfl

theorem formatFor_filteredLen : (L.raster f).filteredLen = L.filteredBytes := by
  rw [Raster.filteredLen, Raster.bpl, Args.filteredBytes, ← formatFor_bpl h]
  rfl

theorem formatFor_sampleBytes :
    (L.raster f).sampleBytes = L.width.toNat * L.height.toNat * samplesOf L.ctypeBits := by
  rw [← formatFor_channels h]
  rfl

theorem formatFor_eq_palette_iff : f.ct = .palette ↔ L.ctypeBits = 3 := by
  obtain ⟨-, hcode, -⟩ := (formatFor_eq_some_iff_legal c L f).1 h
  rw [Ctype.eq_palette_iff, hcode]

end

/-- Beyond the end there is nothing to round up: R231's two cases in one quotient. -/
theorem ceilDiv_sub_eq {start size inc : Nat} (h : 0 < inc) :
    (if start < size then ceilDiv (size - start) inc else 0) = (size - start + (inc - 1)) / inc := by
  split
  · rw [ceilDiv, Nat.add_sub_assoc h]
  · rw [show size - start = 0 by omega, Nat.zero_add, Nat.div_eq_of_lt (by omega)]

theorem passWidth_eq (w p : Nat) : passWidth w p = (w - (adam7Pass p).sc + ((adam7Pass p).ci - 1)) / (adam7Pass p).ci := by
  obtain ⟨-, hci⟩ := adam7Pass_increments_pos p
  exact ceilDiv_sub_eq hci

theorem passHeight_eq (h p : Nat) : passHeight h p = (h - (adam7Pass p).sr + ((adam7Pass p).ri - 1)) / (adam7Pass p).ri := by
  obtain ⟨hri, -⟩ := adam7Pass_increments_pos p
  exact ceilDiv_sub_eq hri

theorem loop_add_eq_sum (g : Nat → Nat) (n : Nat) : loop (fun k m => m + g k) n 0 = ((List.range n).map g).sum := by
  induction n with
  | zero => rfl
  | succ n ih => rw [loop_succ, ih, List.range_succ, List.map_append, List.sum_append, List.map_singleton, List.sum_singleton]

/-- The stream's length (R232): the same seven terms, pass by pass. -/
theorem formatFor_adam7Len {c : FormatUser} {L : Args} {f : PixFmt} (h : formatFor c L = some f) :
    adam7Len (L.raster f) = L.interlacedBytes := by
  have hpass : ∀ p, passRows L.width.toNat L.height.toNat p * (1 + passBpl f L.width.toNat p) =
      if passWidth L.width.toNat p = 0 then 0
      else passHeight L.height.toNat p * (1 + L.bytesFor (passWidth L.width.toNat p)) := fun p => by
    rw [passRows, passBpl, formatFor_bpl h, ite_mul, zero_mul]
  rw [adam7Len, loop_add_eq_sum]
  simp only [Args.raster, hpass, passWidth_eq, passHeight_eq]
  rfl

/-! ### The commands -/

/-- Every command raises by its first failing start check. -/
theorem exec_raisesFirst {i : Instr} {s t : State} (h : exec i s = .next t) :
    State.RaisesFirst s t (startChecks s.params s.latch i) := by
  cases i with
  | nop | crcInit => exact .nil
  | crcUpdate =>
    rw [execCrcUpdate_cases s t h]
    exact State.checked_raisesFirst _ (.cons (rangeCheck_records _ .src s.latch.src) .nil)
  | lzwDecode =>
    have hchecks := State.checked_raisesFirst (s := s) t (srcDstChecks_record s.params s.latch)
    obtain ⟨e, he, rfl⟩ | ⟨he, -⟩ := execLzwDecode_cases s t h
    · rwa [State.checked_of_some _ _ _ e he] at hchecks
    · rwa [State.checked_of_none _ _ _ he] at hchecks
  | unfilter =>
    refine State.raisesFirst_of_format (execUnfilter_cases s t h) fun f hf => State.checked_raisesFirst _ ?_
    rw [← formatFor_filteredLen hf, ← formatFor_rawLen hf]
    exact rasterChecks_record _ _ _ _
  | filter code =>
    obtain ⟨hcode, rfl⟩ | ⟨ft, hft, hrest⟩ := execFilter_cases code s t h
    · exact .cons (fun _ => ⟨_, rfl, rfl, rfl⟩) fun hle => absurd hle ((FilterType.ofCode_eq_none_iff code).1 hcode)
    · refine .cons (fun hgt => ?_) fun _ => ?_
      · rw [(FilterType.ofCode_eq_none_iff code).2 hgt] at hft
        cases hft
      · refine State.raisesFirst_of_format hrest fun f hf => State.checked_raisesFirst _ ?_
        rw [← formatFor_filteredLen hf, ← formatFor_rawLen hf]
        exact rasterChecks_record _ _ _ _
  | expand =>
    refine State.raisesFirst_of_format (execExpand_cases s t h) fun f hf => State.checked_raisesFirst _ ?_
    rw [← formatFor_rawLen hf]
    exact expandChecks_record _ _ _ (formatFor_eq_palette_iff hf)
  | pack =>
    refine State.raisesFirst_of_format (execPack_cases s t h) fun f hf => State.checked_raisesFirst _ ?_
    rw [← formatFor_sampleBytes hf, ← formatFor_rawLen hf]
    exact rasterChecks_record _ _ _ _
  | adam7Deinterlace =>
    refine State.raisesFirst_of_format (execAdam7_cases s t h) fun f hf => State.checked_raisesFirst _ ?_
    rw [← formatFor_adam7Len hf, ← formatFor_rawLen hf, ← formatFor_bpl hf]
    exact List.rel_append (rasterChecks_record _ _ _ _) (.cons (lineBufCheck_records _ _) .nil)

/-- Settles O32: the command raises the error of the first failing check, and `raise` leaves the rest alone. -/
theorem startChecksInOrder : Obligations.StartChecksInOrder := by
  unfold Obligations.StartChecksInOrder
  intro s i before after c hchecks hbefore hc
  obtain ⟨t, ht⟩ := exec_isNext i s
  obtain ⟨e, rfl, hcode, hinfo⟩ := exec_raisesFirst ht before c after hchecks hbefore hc
  refine ⟨_, ht, ?_, rfl, s.raise_sameRest e, s.raise_sameUnits e⟩
  rw [← hcode, ← hinfo]
  exact s.raise_failedWith e

end Sys2Proof.Machine
end

section
/-! SUPPORT. The CRC32 unit: the table as a linear map (R100, R101), and the two commands on CRC_STATE (R102 to R104). -/

namespace Sys2Proof.Machine

/-! ### The table-driven step (R100, R101) -/

theorem crcShift_xor (x y : Word) : crcShift (x ^^^ y) = crcShift x ^^^ crcShift y := by
  simp only [crcShift, BitVec.getLsbD_xor, BitVec.ushiftRight_xor_distrib]
  cases hx : x.getLsbD 0 <;> cases hy : y.getLsbD 0 <;>
    simp only [Bool.xor_false, Bool.false_xor, Bool.xor_self, Bool.false_eq_true, if_true, if_false]
  · ac_rfl
  · ac_rfl
  · have hpoly : 0xEDB88320#32 ^^^ x >>> 1 ^^^ (0xEDB88320#32 ^^^ y >>> 1) =
        (0xEDB88320#32 ^^^ 0xEDB88320#32) ^^^ (x >>> 1 ^^^ y >>> 1) := by ac_rfl
    rw [hpoly, BitVec.xor_self, BitVec.zero_xor]

/-- The shifts of a sum are the sum of the shifts. -/
theorem loop_crcShift_xor (n : Nat) (x y : Word) :
    loop (fun _ c => crcShift c) n (x ^^^ y) = loop (fun _ c => crcShift c) n x ^^^ loop (fun _ c => crcShift c) n y := by
  induction n with
  | zero => rfl
  | succ n ih => simp only [loop_succ, ih, crcShift_xor]

/-- A word whose low bits are 0 is only shifted: the polynomial never comes in. -/
theorem loop_crcShift_of_low_zero (n : Nat) {x : Word} (h : ∀ i, i < n → x.getLsbD i = false) :
    loop (fun _ c => crcShift c) n x = x >>> n := by
  induction n with
  | zero => simp
  | succ n ih =>
    have hbit : (x >>> n).getLsbD 0 = false := by simpa using h n (Nat.lt_succ_self n)
    rw [loop_succ, ih fun i hi => h i (Nat.lt_succ_of_lt hi), crcShift, hbit, ← BitVec.shiftRight_add]
    rfl

/-- The state with the next byte added: its low byte, which indexes the table, and its upper bytes, which the byte leaves alone. -/
theorem xor_byte_eq_low_xor_high (c : Word) (b : Byte) :
    c ^^^ b.setWidth 32 = ((c ^^^ b.setWidth 32).setWidth 8).setWidth 32 ^^^ ((c >>> 8) <<< 8) := by
  ext i hi
  by_cases h : i < 8
  · simp [h, hi]
  · have hb : b.getLsbD i = false := BitVec.getLsbD_of_ge b i (by omega)
    simp [h, hb, show 8 + (i - 8) = i by omega, BitVec.getLsbD_eq_getElem hi]

theorem high_shiftRight (c : Word) : ((c >>> 8) <<< 8) >>> 8 = c >>> 8 := by
  ext i hi
  simpa using BitVec.lt_of_getLsbD

/-- R101's step is R100's eight shifts of the state with the byte added. -/
theorem crcStep_eq_shifts (c : Word) (b : Byte) : crcStep c b = loop (fun _ x => crcShift x) 8 (c ^^^ b.setWidth 32) := by
  have hhigh : loop (fun _ x => crcShift x) 8 ((c >>> 8) <<< 8) = c >>> 8 := by
    rw [loop_crcShift_of_low_zero 8 fun i hi => by simp [hi], high_shiftRight]
  rw [xor_byte_eq_low_xor_high, loop_crcShift_xor, hhigh, crcStep, crcTable]

/-- Settles O37: the step by the table's linearity, its check values by evaluation. -/
theorem crcStepIsBitwise : Obligations.CrcStepIsBitwise := by
  unfold Obligations.CrcStepIsBitwise
  exact ⟨crcStep_eq_shifts, by decide⟩

/-! ### CRC_UPDATE (R102, R104) -/

theorem crcOver_eq_foldl (m : Memory) (base n : Nat) (c : Word) :
    crcOver m base n c = ((List.range n).map fun k => memRead m (base + k)).foldl crcStep c := by
  induction n with
  | zero => rfl
  | succ n ih => rw [List.range_succ, List.map_append, List.foldl_append, ← ih]; rfl

/-- R102: the bytes of a sequence in two parts. -/
theorem crcOver_add (m : Memory) (base n k : Nat) (c : Word) :
    crcOver m base (n + k) c = crcOver m (base + n) k (crcOver m base n c) := by
  induction k with
  | zero => rfl
  | succ k ih =>
    simp only [crcOver, ← Nat.add_assoc, loop_succ] at ih ⊢
    rw [ih]

theorem exec_crcUpdate_of_inMem {s : State} (h : InMem s.params s.latch.srcAddr.toNat s.latch.srcLen.toNat) :
    exec .crcUpdate s = .next (crcUpdateRun s) := by
  have hc : rangeCheck s.params .src s.latch.src = none := (rangeCheck_eq_none _ _ _).2 h
  rw [exec, execCrcUpdate, hc, State.checked_of_none _ _ _ rfl]

theorem exec_crcUpdate_of_not_inMem {s : State} (h : ¬ InMem s.params s.latch.srcAddr.toNat s.latch.srcLen.toNat) :
    exec .crcUpdate s = .next (s.raise (.range .src)) := by
  have hr : s.latch.src.inRange s.params = false := decide_eq_false h
  rw [exec, execCrcUpdate, rangeCheck, hr, State.checked_of_some _ _ _ _ rfl]

/-- Settles O35: SRC in range runs the fold, SRC out of range raises RANGE. -/
theorem crcUpdateFoldsSrc : Obligations.CrcUpdateFoldsSrc := by
  unfold Obligations.CrcUpdateFoldsSrc
  refine ⟨rfl, fun s => ⟨fun h => ?_, fun h => ?_⟩⟩
  · exact ⟨_, exec_crcUpdate_of_inMem h, ⟨rfl, rfl, rfl⟩, (crcUpdateRun_commandEnd s).sameHostSide, ⟨rfl, rfl, rfl, rfl⟩, rfl,
      crcOver_eq_foldl _ _ _ _⟩
  · exact ⟨_, exec_crcUpdate_of_not_inMem h, s.raise_failedWith _, s.raise_sameHostSide _, s.raise_sameUnits _, rfl, rfl⟩

/-- CRC_UPDATE on a region given in numbers. -/
theorem exec_crcUpdate_withSrc (s : State) (L : Args) {a n : Nat} (ha : a < 2 ^ 32) (hn : n < 2 ^ 32)
    (h : a + n ≤ s.params.memBytes) :
    ∃ t, exec .crcUpdate (s.withLatch (L.withSrc (BitVec.ofNat 32 a) (BitVec.ofNat 32 n))) = .next t ∧
      t.crcState = crcOver s.mem a n s.crcState ∧ t.status.err = s.status.err ∧ t.mem = s.mem ∧ t.params = s.params := by
  have hat : (BitVec.ofNat 32 a).toNat = a := by rw [BitVec.toNat_ofNat, Nat.mod_eq_of_lt ha]
  have hnt : (BitVec.ofNat 32 n).toNat = n := by rw [BitVec.toNat_ofNat, Nat.mod_eq_of_lt hn]
  refine ⟨_, exec_crcUpdate_of_inMem (.inr ?_), ?_, rfl, rfl, rfl⟩
  · simpa only [State.withLatch, Args.withSrc, hat, hnt] using h
  · simp only [crcUpdateRun, State.withLatch, Args.withSrc, hat, hnt]
    rfl

/-- Settles O36: the second command starts from the state the first one left, on the same MEM. -/
theorem crcUpdateMayBeSplit : Obligations.CrcUpdateMayBeSplit := by
  unfold Obligations.CrcUpdateMayBeSplit
  intro s a n1 n2 hmem ha hn
  obtain ⟨t, ht, hcrc, herr, -⟩ := exec_crcUpdate_withSrc s s.latch (a := a) (n := n1 + n2) (by omega) hn (by omega)
  obtain ⟨t1, ht1, hcrc1, herr1, hmem1, hp1⟩ :=
    exec_crcUpdate_withSrc s s.latch (a := a) (n := n1) (by omega) (by omega) (by omega)
  obtain ⟨t2, ht2, hcrc2, herr2, -⟩ :=
    exec_crcUpdate_withSrc t1 s.latch (a := a + n1) (n := n2) ha (by omega) (by rw [hp1]; exact hmem)
  refine ⟨t, t1, t2, ht, ht1, ht2, ?_, herr, herr2.trans herr1⟩
  rw [hcrc2, hmem1, hcrc1, hcrc, crcOver_add]

/-! ### CRC_INIT (R103) -/

/-- Settles O34: the second CRC_INIT writes what the first one left. -/
theorem crcInitCompletes : Obligations.CrcInitCompletes := by
  unfold Obligations.CrcInitCompletes
  exact ⟨rfl, fun s => ⟨_, rfl, rfl, BitVec.xor_self, rfl⟩⟩

end Sys2Proof.Machine
end

section
/-! SUPPORT. The strings of the code table (R130, R133): what a chase of a code returns, and what a new entry changes of it. -/

namespace Sys2Proof.Machine

/-- Settles O38: the loop ends within its bound, and so does every chase. -/
theorem lzwDecodeAlwaysCompletes : Obligations.LzwDecodeAlwaysCompletes := by
  unfold Obligations.LzwDecodeAlwaysCompletes
  exact execLzwDecode_isNext

/-! ### What a chase returns (R130) -/

theorem expandCode_root (table : Ram 20) {clear c : Nat} (n : Nat) (h : c < clear) :
    expandCode table clear (n + 1) c = some [BitVec.ofNat 8 c] := by
  rw [expandCode, if_pos h]

/-- A code above the roots continues an older code's string by its entry's last byte. -/
theorem expandCode_entry (table : Ram 20) {clear c : Nat} (n : Nat) (h : ¬ c < clear) :
    expandCode table clear (n + 1) c =
      (expandCode table clear n (entryPrefix table c)).map (· ++ [(tableEntry table c).setWidth 8]) := by
  rw [expandCode, if_neg h, entryPrefix]
  cases expandCode table clear n ((tableEntry table c).toNat / 2 ^ 8) <;> rfl

theorem expandCode_ne_nil {table : Ram 20} {clear n c : Nat} {out : List Byte} (h : expandCode table clear n c = some out) :
    out ≠ [] := by
  cases n with
  | zero => cases h
  | succ n =>
    by_cases hroot : c < clear
    · rw [expandCode_root table n hroot] at h
      cases h
      exact List.cons_ne_nil _ _
    · rw [expandCode_entry table n hroot] at h
      obtain ⟨front, -, rfl⟩ := Option.map_eq_some_iff.1 h
      exact List.append_ne_nil_of_right_ne_nil _ (List.cons_ne_nil _ _)

/-- A chase that ends within its bound ends alike within a larger one. -/
theorem expandCode_succ_of_some {table : Ram 20} {clear n c : Nat} {out : List Byte}
    (h : expandCode table clear n c = some out) : expandCode table clear (n + 1) c = some out := by
  induction n generalizing c out with
  | zero => cases h
  | succ n ih =>
    by_cases hroot : c < clear
    · rwa [expandCode_root table _ hroot] at h ⊢
    · rw [expandCode_entry table _ hroot] at h ⊢
      obtain ⟨front, hfront, rfl⟩ := Option.map_eq_some_iff.1 h
      rw [ih hfront, Option.map_some]

/-! ### What a new entry changes (R133) -/

theorem addEntry_eq_self (table : Ram 20) {z : Lzw} (k : Byte) (h : z.prevCode = none ∨ 4096 ≤ z.nextCode) :
    addEntry table z k = (table, z) := by
  unfold addEntry
  split
  · rfl
  · next prev hp =>
    have hfull : 4096 ≤ z.nextCode := h.resolve_left (by simp [hp])
    exact if_neg (Nat.not_lt.2 hfull)

theorem addEntry_of_prev (table : Ram 20) {z : Lzw} (k : Byte) {prev : Nat} (hp : z.prevCode = some prev)
    (h : z.nextCode < 4096) :
    addEntry table z k = (Ram.put table z.nextCode (BitVec.ofNat 20 (prev * 2 ^ 8 + k.toNat)),
      { z with nextCode := z.nextCode + 1, codeSize := grownSize (z.nextCode + 1) z.codeSize }) := by
  simp only [addEntry, hp, if_pos h]

/-- The entry at `next_code` or above is in no chase of an older code. -/
theorem expandCode_put_newer {table : Ram 20} {z : Lzw} (h : z.Chained table) (v : BitVec 20) (n : Nat) {c : Nat}
    (hc : z.Ordinary c) (hused : c < z.nextCode) :
    expandCode (Ram.put table z.nextCode v) z.clearCode n c = expandCode table z.clearCode n c := by
  induction n generalizing c with
  | zero => rfl
  | succ n ih =>
    by_cases hroot : c < z.clearCode
    · rw [expandCode_root _ n hroot, expandCode_root _ n hroot]
    · obtain ⟨holder, hord⟩ := h.entry c (hc.resolve_left hroot) hused
      have hsame : tableEntry (Ram.put table z.nextCode v) c = tableEntry table c :=
        tableEntry_put_ne table v (Nat.ne_of_lt hused)
      rw [expandCode_entry _ n hroot, expandCode_entry _ n hroot, entryPrefix, hsame, ← entryPrefix,
        ih hord (holder.trans hused)]

/-- An entry, or none, is added: the older codes keep their strings. -/
theorem addEntry_expandCode_old {table : Ram 20} {z : Lzw} (h : z.Chained table) (k : Byte) (n : Nat) {c : Nat}
    (hc : z.Ordinary c) (hused : c < z.nextCode) :
    expandCode (addEntry table z k).1 z.clearCode n c = expandCode table z.clearCode n c := by
  cases hp : z.prevCode with
  | none => rw [addEntry_eq_self table k (.inl hp)]
  | some prev =>
    obtain hlt | hfull := Nat.lt_or_ge z.nextCode 4096
    · rw [addEntry_of_prev table k hp hlt]
      exact expandCode_put_newer h _ n hc hused
    · rw [addEntry_eq_self table k (.inr hfull)]

/-- The suffix of the packed entry of R133. -/
theorem entrySuffix_packed (prev : Nat) (k : Byte) :
    (BitVec.ofNat 20 (prev * 2 ^ 8 + k.toNat)).setWidth 8 = k := by
  apply BitVec.eq_of_toNat_eq
  have := k.isLt
  simp only [BitVec.toNat_setWidth, BitVec.toNat_ofNat]
  omega

/-- The new entry's string is the previous code's and one byte. -/
theorem addEntry_expandCode_new {table : Ram 20} {z : Lzw} (h : z.Chained table) (k : Byte) (n : Nat) {prev : Nat}
    (hp : z.prevCode = some prev) (hprev : prev < z.nextCode) (hlt : z.nextCode < 4096) (hclear : z.clearCode ≤ z.nextCode) :
    expandCode (addEntry table z k).1 z.clearCode (n + 1) z.nextCode =
      (expandCode table z.clearCode n prev).map (· ++ [k]) := by
  rw [addEntry_of_prev table k hp hlt, expandCode_entry _ n (Nat.not_lt.2 hclear),
    entryPrefix_put_self table _ k (hprev.trans hlt), tableEntry_put_self, entrySuffix_packed,
    expandCode_put_newer h _ n (h.prev prev hp) hprev]

/-- Settles O42: the premises are the chains of the table. -/
theorem lzwEntryExtendsThePreviousCode : Obligations.LzwEntryExtendsThePreviousCode := by
  unfold Obligations.LzwEntryExtendsThePreviousCode
  intro table z k prev n out ordinary hp hord hprev hlt hclear hentries hout
  have hch : z.Chained table := ⟨fun c hc => by rw [hp] at hc; cases hc; exact hord, hentries⟩
  refine ⟨?_, fun c j hused hc => addEntry_expandCode_old hch k j hc hused⟩
  rw [addEntry_expandCode_new hch k n hp hprev hlt hclear, hout, Option.map_some]

end Sys2Proof.Machine
end

section
/-! SUPPORT. The bits that LZW_DECODE has still to read (R125, R126), as one number: what a data byte and a code take of it. -/

namespace Sys2Proof.Machine

/-- The bytes of SRC from offset `j` on. -/
def srcRest (m : Memory) (src : Region) (j : Nat) : List Byte :=
  (List.range (src.len - j)).map fun k => memRead m (src.base + j + k)

/-- The data bytes that the decoder has not read, and the offset of the first byte that is missing (R125). -/
def Lzw.dataLeft (z : Lzw) (m : Memory) (src : Region) : List Byte × Option Nat :=
  if z.streamEnd then ([], none) else subBlockData z.inPos z.subRem (srcRest m src z.inPos)

/-- The bits still to be decoded: how many, their number with the first bit lowest (R126), and the offset of the first byte that is
missing after them. -/
structure LzwSupply where
  bits    : Nat
  number  : Nat
  missing : Option Nat

/-- The bits in the buffer, and above them those of the data bytes not yet read. -/
def Lzw.supply (z : Lzw) (m : Memory) (src : Region) : LzwSupply where
  bits := z.bitcnt + 8 * (z.dataLeft m src).1.length
  number := z.bitbuf + 2 ^ z.bitcnt * dataNumber (z.dataLeft m src).1
  missing := (z.dataLeft m src).2

/-- The supply after a code of `n` bits. -/
def LzwSupply.drop (u : LzwSupply) (n : Nat) : LzwSupply := ⟨u.bits - n, u.number / 2 ^ n, u.missing⟩

/-! ### Reading SRC (R123, R125) -/

section
variable (m : Memory) (src : Region)

theorem srcRest_of_lt {j : Nat} (h : j < src.len) :
    srcRest m src j = memRead m (src.base + j) :: srcRest m src (j + 1) := by
  obtain ⟨n, hn⟩ : ∃ n, src.len - j = n + 1 := ⟨src.len - j - 1, by omega⟩
  have hn' : src.len - (j + 1) = n := by omega
  rw [srcRest, srcRest, hn, hn', List.range_succ_eq_map, List.map_cons, List.map_map]
  refine congrArg _ (List.map_congr_left fun k _ => congrArg (memRead m) ?_)
  show src.base + j + (k + 1) = src.base + (j + 1) + k
  omega

theorem srcRest_of_ge {j : Nat} (h : src.len ≤ j) : srcRest m src j = [] := by
  rw [srcRest, Nat.sub_eq_zero_of_le h]
  rfl

/-- `src_byte` takes the first byte of the rest of SRC, if there is one (R123). -/
theorem srcByte_cases (j : Nat) :
    (srcByte m src j = .error (.srcShort j) ∧ srcRest m src j = []) ∨
    ∃ b, srcByte m src j = .ok b ∧ srcRest m src j = b :: srcRest m src (j + 1) := by
  obtain hlt | hge := Nat.lt_or_ge j src.len
  · exact .inr ⟨_, if_pos hlt, srcRest_of_lt m src hlt⟩
  · exact .inl ⟨if_neg (Nat.not_lt.2 hge), srcRest_of_ge m src hge⟩

/-- What the reading of a data byte may change: the position in SRC, but not the bit buffer. -/
def Lzw.ReadOn (z z' : Lzw) : Prop := ∃ p r e, z' = { z with inPos := p, subRem := r, streamEnd := e }

/-- A byte inside a sub-block is missing, or it is the next data byte. -/
theorem lzwDataByte_cases {z : Lzw} (hend : ¬ z.streamEnd) (hrem : z.subRem ≠ 0) :
    (∃ j, lzwDataByte m src z = .error (.srcShort j) ∧ z.dataLeft m src = ([], some j)) ∨
    ∃ b z', lzwDataByte m src z = .ok (some b, z') ∧ z.ReadOn z' ∧
      z.dataLeft m src = (b :: (z'.dataLeft m src).1, (z'.dataLeft m src).2) := by
  obtain ⟨r, hr⟩ := Nat.exists_eq_succ_of_ne_zero hrem
  obtain ⟨hbyte, hrest⟩ | ⟨b, hbyte, hrest⟩ := srcByte_cases m src z.inPos
  · refine .inl ⟨z.inPos, by rw [lzwDataByte, hbyte], ?_⟩
    simp only [Lzw.dataLeft, if_neg hend, hrest, subBlockData]
  · refine .inr ⟨b, _, by rw [lzwDataByte, hbyte], ⟨_, _, _, rfl⟩, ?_⟩
    simp only [Lzw.dataLeft, if_neg hend, hrest, hr, subBlockData, Nat.succ_sub_one]

/-- What `next_data_byte` returns: a byte is missing, the data ended, or the first of the data bytes left. -/
theorem nextDataByte_cases (z : Lzw) :
    (∃ j, nextDataByte m src z = .error (.srcShort j) ∧ z.dataLeft m src = ([], some j)) ∨
    (∃ z', nextDataByte m src z = .ok (none, z') ∧ z.ReadOn z' ∧
      z.dataLeft m src = ([], none) ∧ z'.dataLeft m src = ([], none)) ∨
    ∃ b z', nextDataByte m src z = .ok (some b, z') ∧ z.ReadOn z' ∧
      z.dataLeft m src = (b :: (z'.dataLeft m src).1, (z'.dataLeft m src).2) := by
  by_cases hend : z.streamEnd
  · have hleft : z.dataLeft m src = ([], none) := if_pos hend
    exact .inr (.inl ⟨z, if_pos hend, ⟨_, _, _, rfl⟩, hleft, hleft⟩)
  by_cases hrem : z.subRem = 0
  · obtain ⟨hbyte, hrest⟩ | ⟨n, hbyte, hrest⟩ := srcByte_cases m src z.inPos
    · refine .inl ⟨z.inPos, by simp only [nextDataByte, if_neg hend, if_pos hrem, hbyte], ?_⟩
      simp only [Lzw.dataLeft, if_neg hend, hrest, subBlockData]
    · have hleft : z.dataLeft m src =
          if n.toNat = 0 then ([], none) else subBlockData (z.inPos + 1) n.toNat (srcRest m src (z.inPos + 1)) := by
        simp only [Lzw.dataLeft, if_neg hend, hrest, hrem, subBlockData]
      by_cases hn : n.toNat = 0
      · rw [if_pos hn] at hleft
        refine .inr (.inl ⟨_, ?_, ⟨z.inPos + 1, z.subRem, true, rfl⟩, hleft, if_pos rfl⟩)
        simp only [nextDataByte, if_neg hend, if_pos hrem, hbyte, if_pos hn]
      · rw [if_neg hn] at hleft
        have hnext : nextDataByte m src z = lzwDataByte m src { z with inPos := z.inPos + 1, subRem := n.toNat } := by
          simp only [nextDataByte, if_neg hend, if_pos hrem, hbyte, if_neg hn]
        have hleft' : { z with inPos := z.inPos + 1, subRem := n.toNat }.dataLeft m src = z.dataLeft m src := by
          rw [hleft]
          exact if_neg hend
        rw [hnext, ← hleft']
        obtain hmissing | ⟨b, z', hdata, ⟨p, r, e, rfl⟩, hfirst⟩ :=
          lzwDataByte_cases m src (z := { z with inPos := z.inPos + 1, subRem := n.toNat }) hend hn
        · exact .inl hmissing
        · exact .inr (.inr ⟨b, _, hdata, ⟨p, r, e, rfl⟩, hfirst⟩)
  · have hnext : nextDataByte m src z = lzwDataByte m src z := by
      simp only [nextDataByte, if_neg hend, if_neg hrem]
    rw [hnext]
    exact (lzwDataByte_cases m src hend hrem).imp_right .inr

/-! ### The bit buffer (R126) -/

/-- A byte put above the buffered bits. -/
theorem bitbuf_append_eq {buf n : Nat} (h : buf < 2 ^ n) (b : Byte) : buf ||| b.toNat <<< n = buf + 2 ^ n * b.toNat := by
  rw [Nat.or_comm, ← Nat.shiftLeft_add_eq_or_of_lt h, Nat.shiftLeft_eq]
  ring

/-- The decoder with another bit buffer. -/
def Lzw.setBits (z : Lzw) (buf cnt : Nat) : Lzw := { z with bitbuf := buf, bitcnt := cnt }

theorem Lzw.supply_setBits (z : Lzw) (buf cnt : Nat) :
    (z.setBits buf cnt).supply m src =
      ⟨cnt + 8 * (z.dataLeft m src).1.length, buf + 2 ^ cnt * dataNumber (z.dataLeft m src).1, (z.dataLeft m src).2⟩ := rfl

/-- The decoder with a data byte put into its buffer. -/
def Lzw.buffer (z : Lzw) (b : Byte) : Lzw := z.setBits (z.bitbuf ||| b.toNat <<< z.bitcnt) (z.bitcnt + 8)

/-- A data byte that moves into the buffer stays in the supply. -/
theorem Lzw.supply_buffer {z z' : Lzw} {b : Byte} (hbuf : z.bitbuf < 2 ^ z.bitcnt) (hread : z.ReadOn z')
    (hleft : z.dataLeft m src = (b :: (z'.dataLeft m src).1, (z'.dataLeft m src).2)) :
    (z'.buffer b).supply m src = z.supply m src := by
  obtain ⟨hcnt, hsame⟩ : z'.bitcnt = z.bitcnt ∧ z'.bitbuf = z.bitbuf := by
    obtain ⟨_, _, _, rfl⟩ := hread
    exact ⟨rfl, rfl⟩
  rw [Lzw.buffer, Lzw.supply_setBits, Lzw.supply, hleft, hcnt, hsame, bitbuf_append_eq hbuf]
  simp only [dataNumber, List.length_cons, LzwSupply.mk.injEq, and_true]
  exact ⟨by omega, by ring⟩

theorem Lzw.ReadOn.inputMoved {z z' : Lzw} (h : z.ReadOn z') : z.InputMoved z' := by
  obtain ⟨_, _, _, rfl⟩ := h
  exact ⟨_, _, _, _, _, rfl⟩

/-- Filling the buffer for a code: a byte is missing and the bits do not reach, or the supply stays as it is and the buffer holds
a code or all that there is. -/
theorem fillBits_cases (n : Nat) {z : Lzw} (hbuf : z.bitbuf < 2 ^ z.bitcnt) (hn : z.codeSize ≤ 8 * n + z.bitcnt) :
    (∃ j, fillBits m src n z = .error (.srcShort j) ∧ (z.supply m src).missing = some j ∧
      (z.supply m src).bits < z.codeSize) ∨
    ∃ z', fillBits m src n z = .ok z' ∧ z.InputMoved z' ∧ z'.bitbuf < 2 ^ z'.bitcnt ∧
      z'.supply m src = z.supply m src ∧ (z'.bitcnt < z'.codeSize → z'.dataLeft m src = ([], none)) := by
  induction n generalizing z with
  | zero => exact .inr ⟨z, rfl, ⟨_, _, _, _, _, rfl⟩, hbuf, rfl, fun h => by omega⟩
  | succ n ih =>
    by_cases hfull : z.codeSize ≤ z.bitcnt
    · exact .inr ⟨z, if_pos hfull, ⟨_, _, _, _, _, rfl⟩, hbuf, rfl, fun h => absurd hfull (Nat.not_le.2 h)⟩
    obtain ⟨j, hnext, hleft⟩ | ⟨z', hnext, hread, hleft, hleft'⟩ | ⟨b, z', hnext, hread, hleft⟩ := nextDataByte_cases m src z
    · refine .inl ⟨j, by rw [fillBits, if_neg hfull, hnext], by rw [Lzw.supply, hleft], ?_⟩
      simpa [Lzw.supply, hleft] using hfull
    · refine .inr ⟨z', by rw [fillBits, if_neg hfull, hnext], hread.inputMoved, ?_, ?_, fun _ => hleft'⟩
      · obtain ⟨_, _, _, rfl⟩ := hread
        exact hbuf
      · rw [Lzw.supply, Lzw.supply, hleft, hleft']
        obtain ⟨_, _, _, rfl⟩ := hread
        rfl
    · have hfill : fillBits m src (n + 1) z = fillBits m src n (z'.buffer b) := by
        rw [fillBits, if_neg hfull, hnext]
        rfl
      have hsupply := Lzw.supply_buffer m src hbuf hread hleft
      obtain ⟨p, r, e, rfl⟩ := hread
      have hmoved : z.InputMoved ({ z with inPos := p, subRem := r, streamEnd := e }.buffer b) := ⟨_, _, _, _, _, rfl⟩
      have hroom : z.codeSize ≤ 8 * n + (z.bitcnt + 8) := by omega
      rw [hfill, ← hsupply]
      obtain hmissing | ⟨y, hy, hmoved', hrest⟩ :=
        ih (z := { z with inPos := p, subRem := r, streamEnd := e }.buffer b) (bitbuf_append_lt hbuf b) hroom
      · exact .inl hmissing
      · exact .inr ⟨y, hy, hmoved.trans hmoved', hrest⟩

/-- The low bits of the buffer are those of the supply. -/
theorem Lzw.supply_take {z : Lzw} {n : Nat} (h : n ≤ z.bitcnt) :
    z.bitbuf % 2 ^ n = (z.supply m src).number % 2 ^ n ∧
    (z.setBits (z.bitbuf >>> n) (z.bitcnt - n)).supply m src = (z.supply m src).drop n := by
  have hpow : 2 ^ z.bitcnt = 2 ^ n * 2 ^ (z.bitcnt - n) := by rw [← Nat.pow_add, Nat.add_sub_cancel' h]
  rw [Lzw.supply_setBits, Lzw.supply, LzwSupply.drop, hpow, Nat.mul_assoc, Nat.add_mul_mod_self_left,
    Nat.add_mul_div_left _ _ (Nat.two_pow_pos n), Nat.shiftRight_eq_div_pow, LzwSupply.mk.injEq]
  exact ⟨rfl, (Nat.sub_add_comm h).symm, rfl, rfl⟩

/-- What `next_code_bits` returns: a byte is missing before the code is whole, the bits are exhausted, or the next code, which
leaves the supply (R126). -/
theorem nextCodeBits_cases {z : Lzw} (hbuf : z.bitbuf < 2 ^ z.bitcnt) :
    (∃ j, nextCodeBits m src z = .error (.srcShort j) ∧ (z.supply m src).missing = some j ∧
      (z.supply m src).bits < z.codeSize) ∨
    (∃ z', nextCodeBits m src z = .ok (none, z') ∧ z.InputMoved z' ∧ (z.supply m src).missing = none ∧
      (z.supply m src).bits < z.codeSize) ∨
    ∃ z', nextCodeBits m src z = .ok (some ((z.supply m src).number % 2 ^ z.codeSize), z') ∧ z.InputMoved z' ∧
      z.codeSize ≤ (z.supply m src).bits ∧ z'.supply m src = (z.supply m src).drop z.codeSize := by
  obtain ⟨j, hfill, hmissing⟩ | ⟨y, hfill, hmoved, hy, hsupply, hshort⟩ :=
    fillBits_cases m src z.codeSize hbuf (by omega)
  · exact .inl ⟨j, by rw [nextCodeBits, hfill], hmissing⟩
  · have hsize : y.codeSize = z.codeSize := by
      obtain ⟨_, _, _, _, _, rfl⟩ := hmoved
      rfl
    rw [← hsupply, ← hsize]
    by_cases hless : y.bitcnt < y.codeSize
    · refine .inr (.inl ⟨y, by rw [nextCodeBits, hfill]; exact if_pos hless, hmoved, ?_, ?_⟩)
      · rw [Lzw.supply, hshort hless]
      · simpa [Lzw.supply, hshort hless] using hless
    · have henough := Nat.le_of_not_lt hless
      obtain ⟨hcode, hdrop⟩ := Lzw.supply_take m src henough
      refine .inr (.inr ⟨_, ?_, hmoved.trans ⟨_, _, _, _, _, rfl⟩, ?_, hdrop⟩)
      · rw [nextCodeBits, hfill, ← hcode]
        exact if_neg hless
      · exact henough.trans (Nat.le_add_right _ _)

end

end Sys2Proof.Machine
end

section
/-! SUPPORT. LZW_DECODE against the reference decoding of its data (R126 to R134): where the decoder stands after each code, and that
its loop ends as the reference does. -/

namespace Sys2Proof.Machine

/-! ### The reference decoding, by cases of its next code -/

/-- The next code of the data (R126). -/
def LzwPoint.code (p : LzwPoint) (d : List Byte) : Nat := dataNumber d / 2 ^ p.pos % 2 ^ p.width

/-- The reference after a clear code (R127). -/
def LzwPoint.clear (m : Nat) (p : LzwPoint) : LzwPoint :=
  { p with pos := p.pos + p.width, width := m + 1, dict := [], prev := none }

section
variable {m : Nat} {d : List Byte} {dstLen : Nat} (n : Nat) {p : LzwPoint}

theorem lzwReference_exhausted (h : 8 * d.length < p.pos + p.width) :
    lzwReference m d dstLen (n + 1) p = (p.out, .exhausted) := by
  rw [lzwReference]
  exact if_pos h

variable (h : p.pos + p.width ≤ 8 * d.length)
include h

theorem lzwReference_clear (hc : p.code d = 2 ^ m) :
    lzwReference m d dstLen (n + 1) p = lzwReference m d dstLen n (p.clear m) := by
  rw [lzwReference]
  exact (if_neg (Nat.not_lt.2 h)).trans (if_pos hc)

theorem lzwReference_endCode (hc : p.code d = 2 ^ m + 1) :
    lzwReference m d dstLen (n + 1) p = (p.out, .endCode) := by
  rw [lzwReference]
  have hclear : p.code d ≠ 2 ^ m := by omega
  exact (if_neg (Nat.not_lt.2 h)).trans ((if_neg hclear).trans (if_pos hc))

theorem lzwReference_ordinary (hclear : p.code d ≠ 2 ^ m) (heoi : p.code d ≠ 2 ^ m + 1) :
    lzwReference m d dstLen (n + 1) p =
      match p.string m (p.code d) with
      | none => (p.out, .badCode (p.code d) (p.next m))
      | some s =>
        if dstLen < p.out.length + s.length then (p.out, .overrun) else lzwReference m d dstLen n (p.emit m s) := by
  rw [lzwReference]
  exact (if_neg (Nat.not_lt.2 h)).trans ((if_neg hclear).trans (if_neg heoi))

end

/-! ### The strings of the reference -/

section
variable {m : Nat} {p : LzwPoint}

theorem LzwPoint.string_root {c : Nat} (h : c < 2 ^ m) : p.string m c = some [BitVec.ofNat 8 c] := if_pos h

theorem LzwPoint.string_next : p.string m (p.next m) = p.prev.map fun s => s ++ s.take 1 := by
  have hroot : ¬ p.next m < 2 ^ m := by unfold LzwPoint.next; omega
  rw [LzwPoint.string, if_neg hroot, if_pos rfl]

theorem LzwPoint.string_dict {c : Nat} (hlow : 2 ^ m ≤ c) (h : c ≠ p.next m) : p.string m c = p.dict[c - (2 ^ m + 2)]? := by
  rw [LzwPoint.string, if_neg (Nat.not_lt.2 hlow), if_neg h]

theorem LzwPoint.string_above {c : Nat} (h : p.next m < c) : p.string m c = none := by
  unfold LzwPoint.next at h
  rw [LzwPoint.string_dict (by omega) (by unfold LzwPoint.next; omega), List.getElem?_eq_none (by omega)]

theorem LzwPoint.emit_of_skip (s : List Byte) (h : p.prev = none ∨ 4096 ≤ p.next m) :
    p.emit m s = { p with pos := p.pos + p.width, prev := some s, out := p.out ++ s } := by
  unfold LzwPoint.emit
  split
  · rfl
  · next q hq => exact if_neg (Nat.not_lt.2 (h.resolve_left (by simp [hq])))

theorem LzwPoint.emit_of_prev (s : List Byte) {q : List Byte} (hq : p.prev = some q) (h : p.next m < 4096) :
    p.emit m s =
      { pos := p.pos + p.width, prev := some s, out := p.out ++ s, dict := p.dict ++ [q ++ s.take 1]
        width := grownSize (p.next m + 1) p.width } := by
  simp only [LzwPoint.emit, hq, if_pos h, grownSize]

/-- The dictionary after an ordinary code: the old one, with at most one more string (R133). -/
theorem LzwPoint.emit_dict (s : List Byte) : ∃ l, (p.emit m s).dict = p.dict ++ l := by
  unfold LzwPoint.emit
  split
  · exact ⟨[], (List.append_nil _).symm⟩
  · split
    · exact ⟨_, rfl⟩
    · exact ⟨[], (List.append_nil _).symm⟩

/-- The codes in use keep their strings. -/
theorem LzwPoint.string_emit_of_lt (s : List Byte) {c : Nat} (h : c < p.next m) (hord : c < 2 ^ m ∨ 2 ^ m + 1 < c) :
    (p.emit m s).string m c = p.string m c := by
  obtain ⟨l, hl⟩ := p.emit_dict (m := m) s
  obtain hroot | hlow := hord
  · rw [LzwPoint.string_root hroot, LzwPoint.string_root hroot]
  · have hlt : c < 2 ^ m + 2 + p.dict.length := h
    have hne : c ≠ (p.emit m s).next m := by
      rw [LzwPoint.next, hl, List.length_append]
      omega
    rw [LzwPoint.string_dict (by omega) hne, LzwPoint.string_dict (by omega) (Nat.ne_of_lt h), hl,
      List.getElem?_append_left (by omega)]

/-- The new code stands for the previous string and the first byte of the one just put out. -/
theorem LzwPoint.string_emit_next (s : List Byte) {q : List Byte} (hq : p.prev = some q) (h : p.next m < 4096) :
    (p.emit m s).string m (p.next m) = some (q ++ s.take 1) := by
  have hindex : p.next m - (2 ^ m + 2) = p.dict.length := Nat.add_sub_cancel_left _ _
  rw [LzwPoint.emit_of_prev s hq h, LzwPoint.string_dict (by unfold LzwPoint.next; omega)
    (by simp only [LzwPoint.next, List.length_append, List.length_singleton]; omega), hindex, List.getElem?_concat_length]

/-- An ordinary code keeps its string when it has been put out; the code equal to the next one gets the entry it stood for. -/
theorem LzwPoint.string_emit_self {s : List Byte} {c : Nat} (hs : p.string m c = some s) (hord : c < 2 ^ m ∨ 2 ^ m + 1 < c)
    (hc : c < 4096) (hprev : p.prev ≠ some []) : (p.emit m s).string m c = some s := by
  obtain hlt | rfl | hgt := Nat.lt_trichotomy c (p.next m)
  · rw [LzwPoint.string_emit_of_lt s hlt hord, hs]
  · rw [LzwPoint.string_next] at hs
    obtain ⟨q, hq, rfl⟩ := Option.map_eq_some_iff.1 hs
    rw [LzwPoint.string_emit_next _ hq hc]
    cases q with
    | nil => exact absurd hq hprev
    | cons b q => rfl
  · rw [LzwPoint.string_above hgt] at hs
    cases hs

end

/-! ### The output of a run -/

/-- The run has written `out` at the start of DST, and MEM is otherwise `m₀`. -/
structure LzwRun.Wrote (k : LzwRun) (m₀ : Memory) (dst : Region) (out : List Byte) : Prop where
  outPos  : k.z.outPos = out.length
  written : Memory.Written dst.base out.length m₀ k.mem
  bytes   : ∀ i, i < out.length → memRead k.mem (dst.base + i) = out.getD i 0

/-- What was written is a matter of MEM and of the output position only. -/
theorem LzwRun.Wrote.of_eq {k k' : LzwRun} {m₀ : Memory} {dst : Region} {out : List Byte} (h : k.Wrote m₀ dst out)
    (hpos : k'.z.outPos = k.z.outPos) (hmem : k'.mem = k.mem) : k'.Wrote m₀ dst out :=
  ⟨hpos.trans h.outPos, hmem ▸ h.written, hmem ▸ h.bytes⟩

theorem Memory.Written.mono {base n n' : Nat} {m m' : Memory} (h : Memory.Written base n m m') (hn : n ≤ n') :
    Memory.Written base n' m m' := by
  induction h with
  | refl => exact .refl
  | write j v hj _ ih => exact ih.write j v (hj.trans_le hn)

/-- The output of a code goes right after what was written before it (R131, R132). -/
theorem LzwRun.Wrote.append {k : LzwRun} {m₀ : Memory} {dst : Region} {out : List Byte} (h : k.Wrote m₀ dst out) (s : List Byte)
    {k' : LzwRun} (hpos : k'.z.outPos = k.z.outPos + s.length)
    (hmem : k'.mem = memFill k.mem (dst.base + k.z.outPos) s.length (fun j => s.getD j 0)) : k'.Wrote m₀ dst (out ++ s) := by
  have hlen : (out ++ s).length = out.length + s.length := List.length_append
  refine ⟨by rw [hpos, h.outPos, hlen], ?_, fun i hi => ?_⟩
  · rw [hmem, h.outPos, hlen]
    exact (h.written.mono (Nat.le_add_right _ _)).fill _ fun j hj => by omega
  · rw [hmem, h.outPos, memRead_memFill]
    obtain hold | hnew := Nat.lt_or_ge i out.length
    · rw [if_neg (by omega), h.bytes i hold, List.getD_append _ _ _ _ hold]
    · rw [if_pos (by omega), List.getD_append_right _ _ _ _ hnew]
      congr 1
      omega

/-! ### Where the decoder stands -/

/-- The string of a code in the code table (R130). -/
def LzwRun.string (k : LzwRun) (c : Nat) : Option (List Byte) := expandCode k.table k.z.clearCode chaseBound c

theorem LzwRun.string_root {k : LzwRun} {m c : Nat} (hclear : k.z.clearCode = 2 ^ m) (p : LzwPoint) (hc : c < 2 ^ m) :
    k.string c = p.string m c := by
  rw [LzwPoint.string_root hc]
  exact expandCode_root _ _ (hclear ▸ hc)

/-- The decoder stands where the reference does, but for the input: every code in use has the same string, and the same bytes are
written. -/
structure LzwRun.Stands (k : LzwRun) (m₀ : Memory) (src dst : Region) (m : Nat) (p : LzwPoint) : Prop where
  fits    : k.z.Fits src dst m
  chained : k.z.Chained k.table
  width   : k.z.codeSize = p.width
  next    : k.z.nextCode = p.next m
  string  : ∀ c, k.z.Ordinary c → c < k.z.nextCode → k.string c = p.string m c
  prev    : k.z.prevCode.bind k.string = p.prev
  wrote   : k.Wrote m₀ dst p.out
  eoiSeen : k.z.eoiSeen = false

section
variable {k : LzwRun} {m₀ : Memory} {src dst : Region} {m : Nat} {p : LzwPoint} (h : k.Stands m₀ src dst m p)
include h

theorem LzwRun.Stands.ordinary_iff (c : Nat) : k.z.Ordinary c ↔ c < 2 ^ m ∨ 2 ^ m + 1 < c := by
  rw [Lzw.Ordinary, h.fits.clearCode, h.fits.eoiCode]

theorem LzwRun.Stands.string_isSome {c : Nat} (hord : k.z.Ordinary c) (hused : c < k.z.nextCode) : ∃ s, k.string c = some s :=
  expandCode_isSome h.chained chaseBound hord (hused.trans_le h.fits.next_le) hused

/-- The previous code's string, on both sides. -/
theorem LzwRun.Stands.prev_cases : (k.z.prevCode = none ∧ p.prev = none) ∨
    ∃ c q, k.z.prevCode = some c ∧ p.prev = some q ∧ k.string c = some q ∧ q ≠ [] := by
  have hprev := h.prev
  cases hc : k.z.prevCode with
  | none =>
    rw [hc] at hprev
    exact .inl ⟨rfl, hprev.symm⟩
  | some c =>
    obtain ⟨-, hused⟩ := h.fits.prev_lt c hc
    obtain ⟨q, hq⟩ := h.string_isSome (h.chained.prev c hc) hused
    rw [hc, Option.bind_some, hq] at hprev
    exact .inr ⟨c, q, rfl, hprev.symm, hq, expandCode_ne_nil hq⟩

theorem LzwRun.Stands.next_ge : 2 ^ m + 1 < k.z.nextCode := h.fits.eoiCode ▸ h.fits.eoi_lt

/-- A code is valid when the reference has a string for it (R129). -/
theorem LzwRun.Stands.validCode_eq {c : Nat} (hord : k.z.Ordinary c) : k.z.validCode c = (p.string m c).isSome := by
  obtain hlt | rfl | hgt := Nat.lt_trichotomy c k.z.nextCode
  · obtain ⟨s, hs⟩ := h.string_isSome hord hlt
    rw [← h.string c hord hlt, hs]
    exact decide_eq_true (.inl hlt)
  · rw [h.next, LzwPoint.string_next, ← h.next]
    obtain ⟨hc, hp⟩ | ⟨c, q, hc, hp, -⟩ := h.prev_cases <;> simp [Lzw.validCode, hc, hp]
  · rw [LzwPoint.string_above (h.next ▸ hgt)]
    exact decide_eq_false (by omega)

/-- The output of an ordinary code is its string in the reference (R131), which is not empty. -/
theorem LzwRun.Stands.outputOf_eq {c : Nat} {s : List Byte} (hord : k.z.Ordinary c) (hs : p.string m c = some s) :
    outputOf k.table k.z c = some (s, s.headD 0) ∧ s.take 1 = [s.headD 0] := by
  have htake : ∀ q : List Byte, q ≠ [] → q.take 1 = [q.headD 0] := by
    rintro (_ | ⟨b, q⟩) hq
    · exact absurd rfl hq
    · rfl
  obtain hlt | rfl | hgt := Nat.lt_trichotomy c k.z.nextCode
  · have hk : expandCode k.table k.z.clearCode chaseBound c = some s := (h.string c hord hlt).trans hs
    refine ⟨?_, htake s (expandCode_ne_nil hk)⟩
    rw [outputOf, if_pos hlt, hk]
  · rw [h.next, LzwPoint.string_next] at hs
    obtain ⟨q, hq, rfl⟩ := Option.map_eq_some_iff.1 hs
    obtain ⟨-, hp⟩ | ⟨c, q', hc, hp, hk, hne⟩ := h.prev_cases
    · rw [hp] at hq
      cases hq
    · cases hp.symm.trans hq
      have hk : expandCode k.table k.z.clearCode chaseBound c = some q := hk
      have hhead : (q ++ q.take 1).headD 0 = q.headD 0 := by
        cases q with
        | nil => exact absurd rfl hne
        | cons b q => rfl
      refine ⟨?_, htake _ (List.append_ne_nil_of_left_ne_nil hne _)⟩
      rw [outputOf, if_neg (lt_irrefl _), hc, hhead, htake q hne]
      simp only [hk]
  · rw [LzwPoint.string_above (h.next ▸ hgt)] at hs
    cases hs

/-- Reading a code moves only the input. -/
theorem LzwRun.Stands.inputMoved {z : Lzw} (hmoved : k.z.InputMoved z) (hfits : z.Fits src dst m) :
    { k with z := z }.Stands m₀ src dst m p := by
  have hchained := hmoved.chained h.chained
  obtain ⟨_, _, _, _, _, rfl⟩ := hmoved
  exact ⟨hfits, hchained, h.width, h.next, h.string, h.prev, h.wrote.of_eq rfl rfl, h.eoiSeen⟩

/-- A clear code (R127) leaves the roots only. -/
theorem LzwRun.Stands.clear (hm : m ≤ 8) : { k with z := k.z.clear }.Stands m₀ src dst m (p.clear m) where
  fits := Lzw.clear_fits hm h.fits
  chained := Lzw.chained_of_empty _ rfl rfl
  width := congrArg (· + 1) h.fits.minCode
  next := congrArg (· + 1) h.fits.eoiCode
  string c hord hused := by
    have hclear : k.z.clear.clearCode = 2 ^ m := h.fits.clearCode
    have hroot : c < k.z.clear.clearCode := hord.resolve_right (Nat.not_lt.2 (Nat.le_of_lt_succ hused))
    exact LzwRun.string_root hclear _ (hclear ▸ hroot)
  prev := rfl
  wrote := h.wrote.of_eq rfl rfl
  eoiSeen := h.eoiSeen

end

/-! ### An ordinary code (R129 to R134) -/

/-- The run after an ordinary code with output `s`. -/
def LzwRun.emitted (k : LzwRun) (dst : Region) (code : Nat) (s : List Byte) : LzwRun where
  mem := memFill k.mem (dst.base + k.z.outPos) s.length (fun j => s.getD j 0)
  table := (addEntry k.table k.z (s.headD 0)).1
  z := { (addEntry k.table k.z (s.headD 0)).2 with outPos := k.z.outPos + s.length, prevCode := some code }

theorem addEntry_outPos (table : Ram 20) (z : Lzw) (b : Byte) (n : Nat) :
    addEntry table { z with outPos := n } b = ((addEntry table z b).1, { (addEntry table z b).2 with outPos := n }) := by
  obtain hp | ⟨prev, hp⟩ := Option.eq_none_or_eq_some z.prevCode
  · rw [addEntry_eq_self table b (.inl hp), addEntry_eq_self (z := { z with outPos := n }) table b (.inl hp)]
  · obtain hlt | hfull := Nat.lt_or_ge z.nextCode 4096
    · rw [addEntry_of_prev table b hp hlt, addEntry_of_prev (z := { z with outPos := n }) table b hp hlt]
    · rw [addEntry_eq_self table b (.inr hfull), addEntry_eq_self (z := { z with outPos := n }) table b (.inr hfull)]

/-- What `add_entry` leaves of the decoder, besides the next code and the code width. -/
theorem addEntry_keeps (table : Ram 20) (z : Lzw) (b : Byte) :
    (addEntry table z b).2 =
      { z with nextCode := (addEntry table z b).2.nextCode, codeSize := (addEntry table z b).2.codeSize } := by
  obtain ⟨-, he⟩ | ⟨-, he⟩ := addEntry_cases table z b <;> rw [he]

theorem LzwRun.emitted_clearCode (k : LzwRun) (dst : Region) (code : Nat) (s : List Byte) :
    (k.emitted dst code s).z.clearCode = k.z.clearCode := by
  rw [LzwRun.emitted, addEntry_keeps]

theorem LzwRun.emitted_eoiCode (k : LzwRun) (dst : Region) (code : Nat) (s : List Byte) :
    (k.emitted dst code s).z.eoiCode = k.z.eoiCode := by
  rw [LzwRun.emitted, addEntry_keeps]

theorem LzwRun.emitted_eoiSeen (k : LzwRun) (dst : Region) (code : Nat) (s : List Byte) :
    (k.emitted dst code s).z.eoiSeen = k.z.eoiSeen := by
  rw [LzwRun.emitted, addEntry_keeps]

theorem LzwRun.emitted_supply (k : LzwRun) (dst : Region) (code : Nat) (s : List Byte) (m : Memory) (src : Region) :
    (k.emitted dst code s).z.supply m src = k.z.supply m src := by
  rw [LzwRun.emitted, addEntry_keeps]
  rfl

section
variable {k : LzwRun} {dst : Region} {code : Nat}

theorem lzwOrdinary_of_invalid (hvalid : k.z.validCode code = false) :
    lzwOrdinary dst k code = (k, some (.error (.lzwCode code k.z.nextCode))) := by
  rw [lzwOrdinary, hvalid]
  rfl

variable (hvalid : k.z.validCode code = true) {s : List Byte} (hout : outputOf k.table k.z code = some (s, s.headD 0))
include hvalid hout

theorem lzwOrdinary_of_overrun (hroom : dst.len < k.z.outPos + s.length) :
    lzwOrdinary dst k code = (k, some .overrun) := by
  simp only [lzwOrdinary, if_pos hvalid, hout, if_pos hroom]

theorem lzwOrdinary_of_output (hroom : k.z.outPos + s.length ≤ dst.len) :
    lzwOrdinary dst k code = (k.emitted dst code s, none) := by
  simp only [lzwOrdinary, if_pos hvalid, hout, if_neg (Nat.not_lt.2 hroom), addEntry_outPos]
  rfl

end

section
variable {k : LzwRun} {m₀ : Memory} {src dst : Region} {m : Nat} {p : LzwPoint} (h : k.Stands m₀ src dst m p)
include h

/-- An entry is added on both sides or on neither (R133). -/
theorem LzwRun.Stands.emit_cases (b : Byte) (s : List Byte) :
    (addEntry k.table k.z b = (k.table, k.z) ∧
      p.emit m s = { p with pos := p.pos + p.width, prev := some s, out := p.out ++ s }) ∨
    ∃ c q, k.z.prevCode = some c ∧ p.prev = some q ∧ k.string c = some q ∧ p.next m < 4096 ∧
      addEntry k.table k.z b = (Ram.put k.table k.z.nextCode (BitVec.ofNat 20 (c * 2 ^ 8 + b.toNat)),
        { k.z with nextCode := k.z.nextCode + 1, codeSize := grownSize (k.z.nextCode + 1) k.z.codeSize }) ∧
      p.emit m s = { pos := p.pos + p.width, prev := some s, out := p.out ++ s, dict := p.dict ++ [q ++ s.take 1]
                     width := grownSize (p.next m + 1) p.width } := by
  obtain ⟨hc, hp⟩ | ⟨c, q, hc, hp, hk, -⟩ := h.prev_cases
  · exact .inl ⟨addEntry_eq_self _ b (.inl hc), LzwPoint.emit_of_skip s (.inl hp)⟩
  · obtain hlt | hfull := Nat.lt_or_ge (p.next m) 4096
    · exact .inr ⟨c, q, hc, hp, hk, hlt, addEntry_of_prev _ b hc (h.next ▸ hlt), LzwPoint.emit_of_prev s hp hlt⟩
    · exact .inl ⟨addEntry_eq_self _ b (.inr (h.next ▸ hfull)), LzwPoint.emit_of_skip s (.inr hfull)⟩

theorem LzwRun.Stands.emitted_width (code : Nat) (s : List Byte) :
    (k.emitted dst code s).z.codeSize = (p.emit m s).width := by
  obtain ⟨ha, he⟩ | ⟨c, q, -, -, -, -, ha, he⟩ := h.emit_cases (s.headD 0) s
  · simp only [LzwRun.emitted, ha, he, h.width]
  · simp only [LzwRun.emitted, ha, he, h.width, h.next]

theorem LzwRun.Stands.emitted_next (code : Nat) (s : List Byte) :
    (k.emitted dst code s).z.nextCode = (p.emit m s).next m := by
  have hnext := h.next
  unfold LzwPoint.next at hnext ⊢
  obtain ⟨ha, he⟩ | ⟨c, q, -, -, -, -, ha, he⟩ := h.emit_cases (s.headD 0) s
  · simp only [LzwRun.emitted, ha, he, hnext]
  · simp only [LzwRun.emitted, ha, he, hnext, List.length_append, List.length_singleton, Nat.add_assoc]

/-- Every code in use has the same string on both sides, the new one too. -/
theorem LzwRun.Stands.emitted_string (code : Nat) {s : List Byte} (hs : s.take 1 = [s.headD 0]) {c : Nat} (hord : k.z.Ordinary c)
    (hused : c < (k.emitted dst code s).z.nextCode) : (k.emitted dst code s).string c = (p.emit m s).string m c := by
  rw [LzwRun.string, LzwRun.emitted_clearCode]
  obtain hold | hnew := Nat.lt_or_ge c k.z.nextCode
  · rw [LzwPoint.string_emit_of_lt s (h.next ▸ hold) ((h.ordinary_iff c).1 hord), ← h.string c hord hold]
    exact addEntry_expandCode_old h.chained _ _ hord hold
  · obtain ⟨ha, -⟩ | ⟨prev, q, hc, hp, hk, hlt, ha, -⟩ := h.emit_cases (s.headD 0) s
    · simp only [LzwRun.emitted, ha] at hused
      omega
    · have hlt' : k.z.nextCode < 4096 := h.next ▸ hlt
      obtain ⟨-, hprev⟩ := h.fits.prev_lt prev hc
      have hnext : c = k.z.nextCode := by
        simp only [LzwRun.emitted, ha] at hused
        omega
      obtain ⟨q', hq'⟩ := expandCode_isSome h.chained 4095 (h.chained.prev prev hc) (by omega) hprev
      cases (expandCode_succ_of_some hq').symm.trans hk
      have hclear : k.z.clearCode ≤ k.z.nextCode := by
        have := h.next_ge
        rw [h.fits.clearCode]
        omega
      have hstring := addEntry_expandCode_new h.chained (s.headD 0) 4095 hc hprev hlt' hclear
      rw [hq', Option.map_some, ← hs] at hstring
      rw [hnext, h.next, LzwPoint.string_emit_next s hp hlt, ← h.next]
      exact hstring

/-- An ordinary code with a string in the reference and room in DST: the decoder follows the reference. -/
theorem LzwRun.Stands.emitted {code : Nat} {s : List Byte} (hcode : code < 4096) (hord : k.z.Ordinary code)
    (hs : p.string m code = some s) (hroom : k.z.outPos + s.length ≤ dst.len) :
    (k.emitted dst code s).Stands m₀ src dst m (p.emit m s) := by
  obtain ⟨hout, htake⟩ := h.outputOf_eq hord hs
  have hvalid : k.z.validCode code = true := by rw [h.validCode_eq hord, hs, Option.isSome_some]
  have hstep := lzwOrdinary_of_output hvalid hout hroom
  have hfits := lzwOrdinary_fits (dst := dst) h.fits hcode
  obtain ⟨-, hchained⟩ := lzwOrdinary_progress (dst := dst) h.fits h.chained hord
  rw [hstep] at hfits hchained
  obtain ⟨hchained, -⟩ := hchained rfl
  have hordinary : ∀ c, (k.emitted dst code s).z.Ordinary c ↔ k.z.Ordinary c := fun c => by
    rw [Lzw.Ordinary, LzwRun.emitted_clearCode, LzwRun.emitted_eoiCode, Lzw.Ordinary]
  have hprev : p.prev ≠ some [] := by
    obtain ⟨-, hp⟩ | ⟨c, q, -, hp, -, hne⟩ := h.prev_cases
    · simp [hp]
    · simpa [hp] using hne
  obtain ⟨-, hused⟩ := hfits.prev_lt code rfl
  exact {
    fits := hfits
    chained := hchained
    width := h.emitted_width code s
    next := h.emitted_next code s
    string := fun c hc hused => h.emitted_string code htake ((hordinary c).1 hc) hused
    prev := by
      rw [LzwPoint.emit_prev]
      exact (h.emitted_string code htake hord hused).trans
        (LzwPoint.string_emit_self hs ((h.ordinary_iff code).1 hord) hcode hprev)
    wrote := by
      rw [LzwPoint.emit_out]
      exact h.wrote.append s rfl rfl
    eoiSeen := (k.emitted_eoiSeen dst code s).trans h.eoiSeen }

end

section
variable {k : LzwRun} {m₀ : Memory} {src dst : Region} {m : Nat} {p : LzwPoint} (h : k.Stands m₀ src dst m p)
include h

/-- What an ordinary code does, as the reference tells: it is invalid, its output does not fit DST, or the decoder goes on. -/
theorem LzwRun.Stands.lzwOrdinary_cases {code : Nat} (hcode : code < 4096) (hord : k.z.Ordinary code) :
    (p.string m code = none ∧ lzwOrdinary dst k code = (k, some (.error (.lzwCode code (p.next m))))) ∨
    (∃ s, p.string m code = some s ∧ dst.len < p.out.length + s.length ∧ lzwOrdinary dst k code = (k, some .overrun)) ∨
    ∃ s, p.string m code = some s ∧ ¬ dst.len < p.out.length + s.length ∧
      lzwOrdinary dst k code = (k.emitted dst code s, none) ∧ (k.emitted dst code s).Stands m₀ src dst m (p.emit m s) := by
  have hvalid := h.validCode_eq hord
  cases hs : p.string m code with
  | none =>
    rw [hs] at hvalid
    exact .inl ⟨rfl, by rw [← h.next]; exact lzwOrdinary_of_invalid hvalid⟩
  | some s =>
    rw [hs] at hvalid
    obtain ⟨hout, -⟩ := h.outputOf_eq hord hs
    have hpos := h.wrote.outPos
    by_cases hroom : dst.len < p.out.length + s.length
    · exact .inr (.inl ⟨s, rfl, hroom, lzwOrdinary_of_overrun hvalid hout (hpos ▸ hroom)⟩)
    · have hroom' : k.z.outPos + s.length ≤ dst.len := hpos ▸ Nat.le_of_not_lt hroom
      exact .inr (.inr ⟨s, rfl, hroom, lzwOrdinary_of_output hvalid hout hroom', h.emitted hcode hord hs hroom'⟩)

/-- The output is in DST, so SRC still reads as before the command. -/
theorem LzwRun.Stands.nextCodeBits_eq (hapart : Apart src.base src.len dst.base dst.len) :
    nextCodeBits k.mem src k.z = nextCodeBits m₀ src k.z := by
  have hout : p.out.length ≤ dst.len := h.wrote.outPos ▸ h.fits.outPos_le
  have hagree : m₀.AgreeOn (fun a => src.base ≤ a ∧ a < src.base + src.len) k.mem := fun a ha =>
    h.wrote.written.memRead_outside (by unfold Apart at hapart; omega)
  exact nextCodeBits_congr (srcByte_agree (fun j hj => ⟨Nat.le_add_right _ _, by omega⟩) hagree) k.z

end

/-! ### One turn of the loop -/

section
variable {src dst : Region} {k : LzwRun}

theorem lzwCodeStep_of_error {e : CmdError} (h : nextCodeBits k.mem src k.z = .error e) :
    lzwCodeStep src dst k = (k, some (.error e)) := by
  simp only [lzwCodeStep, h]

theorem lzwCodeStep_of_exhausted {z : Lzw} (h : nextCodeBits k.mem src k.z = .ok (none, z)) :
    lzwCodeStep src dst k = ({ k with z := z }, some .stream) := by
  simp only [lzwCodeStep, h]

variable {z : Lzw} {code : Nat} (h : nextCodeBits k.mem src k.z = .ok (some code, z))
include h

theorem lzwCodeStep_of_clear (hc : code = z.clearCode) : lzwCodeStep src dst k = ({ k with z := z.clear }, none) := by
  simp only [lzwCodeStep, h, if_pos hc]

theorem lzwCodeStep_of_endCode (hclear : code ≠ z.clearCode) (hc : code = z.eoiCode) :
    lzwCodeStep src dst k = ({ k with z := { z with eoiSeen := true } }, some .stream) := by
  simp only [lzwCodeStep, h, if_neg hclear, if_pos hc]

theorem lzwCodeStep_of_ordinary (hclear : code ≠ z.clearCode) (heoi : code ≠ z.eoiCode) :
    lzwCodeStep src dst k = lzwOrdinary dst { k with z := z } code := by
  simp only [lzwCodeStep, h, if_neg hclear, if_neg heoi]

end

theorem lzwLoop_of_some {src dst : Region} (n : Nat) {k k' : LzwRun} {e : LzwEnd} (h : lzwCodeStep src dst k = (k', some e)) :
    lzwLoop src dst (n + 1) k = (k', e) := by
  rw [lzwLoop, h]

theorem lzwLoop_of_none {src dst : Region} (n : Nat) {k k' : LzwRun} (h : lzwCodeStep src dst k = (k', none)) :
    lzwLoop src dst (n + 1) k = lzwLoop src dst n k' := by
  rw [lzwLoop, h]

/-! ### The loop ends as the reference does -/

/-- The data bits from `pos` on. -/
def LzwSupply.ofData (d : List Byte × Option Nat) (pos : Nat) : LzwSupply :=
  ⟨8 * d.1.length - pos, dataNumber d.1 / 2 ^ pos, d.2⟩

theorem LzwSupply.ofData_drop (d : List Byte × Option Nat) (pos n : Nat) :
    (LzwSupply.ofData d pos).drop n = LzwSupply.ofData d (pos + n) := by
  rw [LzwSupply.ofData, LzwSupply.drop, LzwSupply.ofData, Nat.sub_sub, Nat.div_div_eq_div_mul, Nat.pow_add]

/-- How the loop ends where the reference does so: exhausted data end the stream, unless a byte of SRC is missing (R125, R126). -/
def LzwFinish.toEnd (missing : Option Nat) : LzwFinish → LzwEnd
  | .endCode => .stream
  | .exhausted => missing.elim .stream fun j => .error (.srcShort j)
  | .overrun => .overrun
  | .badCode code nextCode => .error (.lzwCode code nextCode)

/-- The loop ended in `x` with the output and the ending `r` of the reference. -/
structure LzwEndsAs (m₀ : Memory) (dst : Region) (missing : Option Nat) (x : LzwRun × LzwEnd) (r : List Byte × LzwFinish) :
    Prop where
  wrote   : x.1.Wrote m₀ dst r.1
  eoiSeen : x.1.z.eoiSeen = decide (r.2 = .endCode)
  ending  : x.2 = r.2.toEnd missing

/-- The decoder stands where the reference does, its input too: the bits left are those of the data from `p.pos` on. -/
structure LzwRun.Follows (k : LzwRun) (m₀ : Memory) (src dst : Region) (m : Nat) (d : List Byte × Option Nat) (p : LzwPoint) :
    Prop where
  stands : k.Stands m₀ src dst m p
  supply : k.z.supply m₀ src = LzwSupply.ofData d p.pos
  pos_le : p.pos ≤ 8 * d.1.length

/-- A turn on both sides: both end alike, or both go on, past at least one bit. -/
inductive LzwTurn (m₀ : Memory) (src dst : Region) (m : Nat) (d : List Byte × Option Nat) (k : LzwRun) (p : LzwPoint) : Prop
  | ends {k' : LzwRun} {e : LzwEnd} (hstep : lzwCodeStep src dst k = (k', some e))
      (hends : ∀ n, LzwEndsAs m₀ dst d.2 (k', e) (lzwReference m d.1 dst.len (n + 1) p))
  | goesOn {k' : LzwRun} {p' : LzwPoint} (hstep : lzwCodeStep src dst k = (k', none))
      (href : ∀ n, lzwReference m d.1 dst.len (n + 1) p = lzwReference m d.1 dst.len n p')
      (hfollows : k'.Follows m₀ src dst m d p') (hpos : p.pos < p'.pos)

section
variable {m₀ : Memory} {src dst : Region} {m : Nat} {d : List Byte × Option Nat} {p : LzwPoint}

/-- The turn of a code that is neither clear nor end (R129 to R134). -/
theorem lzwTurn_of_ordinary {k : LzwRun} {z : Lzw} (hstands : { k with z := z }.Stands m₀ src dst m p)
    (hsupply : z.supply m₀ src = LzwSupply.ofData d (p.pos + p.width)) (hwidth : 0 < p.width)
    (hroom : p.pos + p.width ≤ 8 * d.1.length) (hcode : p.code d.1 < 4096) (hclear : p.code d.1 ≠ 2 ^ m)
    (heoi : p.code d.1 ≠ 2 ^ m + 1)
    (hstep : lzwCodeStep src dst k = lzwOrdinary dst { k with z := z } (p.code d.1)) : LzwTurn m₀ src dst m d k p := by
  have hord : z.Ordinary (p.code d.1) := (hstands.ordinary_iff _).2 (by omega)
  have href := fun n => lzwReference_ordinary (dstLen := dst.len) n hroom hclear heoi
  obtain ⟨hs, ho⟩ | ⟨s, hs, hover, ho⟩ | ⟨s, hs, hfit, ho, hstands'⟩ := hstands.lzwOrdinary_cases hcode hord
  · refine .ends (hstep.trans ho) fun n => ?_
    rw [href, hs]
    exact ⟨hstands.wrote, hstands.eoiSeen, rfl⟩
  · refine .ends (hstep.trans ho) fun n => ?_
    rw [href, hs]
    simp only [if_pos hover]
    exact ⟨hstands.wrote, hstands.eoiSeen, rfl⟩
  · refine .goesOn (p' := p.emit m s) (hstep.trans ho) (fun n => ?_) ⟨hstands', ?_, ?_⟩ ?_
    · rw [href, hs]
      exact if_neg hfit
    · rw [LzwRun.emitted_supply, LzwPoint.emit_pos]
      exact hsupply
    · rwa [LzwPoint.emit_pos]
    · rw [LzwPoint.emit_pos]
      exact Nat.lt_add_of_pos_right hwidth

/-- Every turn is one on both sides: the decoder reads the code that the reference reads, or finds the bits exhausted too. -/
theorem LzwRun.Follows.turn {k : LzwRun} (hm : m ≤ 8) (hapart : Apart src.base src.len dst.base dst.len)
    (h : k.Follows m₀ src dst m d p) : LzwTurn m₀ src dst m d k p := by
  obtain ⟨h, hsupply, hpos⟩ := h
  have hnext := nextCodeBits_cases m₀ src h.fits.bitbuf_lt
  rw [← h.nextCodeBits_eq hapart, hsupply, h.width, LzwSupply.ofData_drop] at hnext
  obtain ⟨j, hnext, hmissing, hless⟩ | ⟨z, hnext, hmoved, hmissing, hless⟩ | ⟨z, hnext, hmoved, henough, hleft⟩ := hnext
  · have hless : 8 * d.1.length - p.pos < p.width := hless
    have hmissing : d.2 = some j := hmissing
    refine .ends (lzwCodeStep_of_error hnext) fun n => ?_
    rw [lzwReference_exhausted n (by omega), hmissing]
    exact ⟨h.wrote, h.eoiSeen, rfl⟩
  · have hless : 8 * d.1.length - p.pos < p.width := hless
    have hmissing : d.2 = none := hmissing
    have hstands := h.inputMoved hmoved (nextCodeBits_fits _ h.fits hnext).1
    refine .ends (lzwCodeStep_of_exhausted hnext) fun n => ?_
    rw [lzwReference_exhausted n (by omega), hmissing]
    exact ⟨hstands.wrote, hstands.eoiSeen, rfl⟩
  · have hnext : nextCodeBits k.mem src k.z = .ok (some (p.code d.1), z) := hnext
    have henough : p.width ≤ 8 * d.1.length - p.pos := henough
    have hroom : p.pos + p.width ≤ 8 * d.1.length := by omega
    have hwidth : 0 < p.width := h.width ▸ Nat.lt_of_lt_of_le (Nat.succ_pos m) h.fits.size_ge
    obtain ⟨hfits, hcode⟩ := nextCodeBits_fits _ h.fits hnext
    have hstands := h.inputMoved hmoved hfits
    by_cases hclear : p.code d.1 = 2 ^ m
    · exact .goesOn (lzwCodeStep_of_clear hnext (hclear.trans hfits.clearCode.symm))
        (fun n => lzwReference_clear n hroom hclear) ⟨hstands.clear hm, hleft, hroom⟩ (Nat.lt_add_of_pos_right hwidth)
    have hclear' : p.code d.1 ≠ z.clearCode := hfits.clearCode ▸ hclear
    by_cases heoi : p.code d.1 = 2 ^ m + 1
    · refine .ends (lzwCodeStep_of_endCode hnext hclear' (heoi.trans hfits.eoiCode.symm)) fun n => ?_
      rw [lzwReference_endCode n hroom heoi]
      exact ⟨hstands.wrote.of_eq rfl rfl, rfl, rfl⟩
    have heoi' : p.code d.1 ≠ z.eoiCode := hfits.eoiCode ▸ heoi
    exact lzwTurn_of_ordinary hstands hleft hwidth hroom (hcode _ rfl) hclear heoi
      (lzwCodeStep_of_ordinary hnext hclear' heoi')

/-- The simulation: the loop ends as the reference does, if it has turns enough, and the reference too. -/
theorem LzwRun.Follows.endsAs (hm : m ≤ 8) (hapart : Apart src.base src.len dst.base dst.len) (n n' : Nat) {k : LzwRun}
    (h : k.Follows m₀ src dst m d p) (hend : (lzwLoop src dst n k).2 ≠ .unbounded) (hn' : 8 * d.1.length - p.pos < n') :
    LzwEndsAs m₀ dst d.2 (lzwLoop src dst n k) (lzwReference m d.1 dst.len n' p) := by
  induction n generalizing k p n' with
  | zero => exact absurd rfl hend
  | succ n ih =>
    obtain ⟨n', rfl⟩ : ∃ l, n' = l + 1 := ⟨n' - 1, by omega⟩
    cases h.turn hm hapart with
    | ends hstep hends =>
      rw [lzwLoop_of_some n hstep]
      exact hends n'
    | goesOn hstep href hfollows hpos =>
      rw [lzwLoop_of_none n hstep] at hend ⊢
      rw [href]
      have := hfollows.pos_le
      exact ih n' hfollows hend (by omega)

end

/-- The start (R124): all data bytes are to be read. -/
theorem Lzw.init_follows (m₀ : Memory) (table : Ram 20) {src : Region} (dst : Region) {m : Nat} (hm : m ≤ 8)
    (hlen : 1 ≤ src.len) :
    LzwRun.Follows ⟨Lzw.init m, table, m₀⟩ m₀ src dst m (subBlockData 1 0 (srcRest m₀ src 1)) (LzwPoint.start m) where
  stands := {
    fits := Lzw.init_fits dst hm hlen
    chained := Lzw.chained_of_empty _ rfl rfl
    width := rfl
    next := rfl
    string := fun c hord hused =>
      LzwRun.string_root rfl _ (hord.resolve_right (Nat.not_lt.2 (Nat.le_of_lt_succ hused)))
    prev := rfl
    wrote := ⟨rfl, .refl, fun i hi => absurd hi (Nat.not_lt_zero i)⟩
    eoiSeen := rfl }
  supply := by
    simp [Lzw.supply, Lzw.dataLeft, Lzw.init, LzwSupply.ofData, LzwPoint.start]
  pos_le := Nat.zero_le _

end Sys2Proof.Machine
end

section
/-! SUPPORT. How LZW_DECODE ends and what it writes (R123, R125, R135 to R137, R141), from the simulation of the reference decoding. -/

namespace Sys2Proof.Machine

/-! ### The start of the operation (R122, R123) -/

theorem exec_lzwDecode_of_fits {s : State} {a b : Nat} (h : s.latch.fits s.params a b) : exec .lzwDecode s = lzwRun s := by
  obtain ⟨hsrc, hdst, hapart, -⟩ := h
  have hchecks : firstError (srcDstChecks s.params s.latch) = none := by
    rw [firstError_eq_none]
    simpa [srcDstChecks] using ⟨hsrc, hdst, hapart⟩
  rw [exec, execLzwDecode, hchecks]

theorem lzwRun_of_empty {s : State} (h : s.latch.srcLen.toNat = 0) :
    lzwRun s = .next (s.conclude 0 (some (.srcShort 0)) []) := by
  have hbyte : srcByte s.mem s.latch.src 0 = .error (.srcShort 0) := if_neg (by show ¬ 0 < s.latch.srcLen.toNat; omega)
  rw [lzwRun, hbyte]

/-- The minimum code size of a SRC that is not empty. -/
theorem srcByte_minCode {s : State} (h : 1 ≤ s.latch.srcLen.toNat) :
    srcByte s.mem s.latch.src 0 = .ok (s.readByte s.latch.srcAddr.toNat) := if_pos h

theorem lzwRun_of_badMinCode {s : State} (hlen : 1 ≤ s.latch.srcLen.toNat)
    (h : (s.readByte s.latch.srcAddr.toNat).toNat < 2 ∨ 8 < (s.readByte s.latch.srcAddr.toNat).toNat) :
    lzwRun s = .next (s.conclude 0 (some (.lzwMincode (s.readByte s.latch.srcAddr.toNat).toNat)) []) := by
  rw [lzwRun, srcByte_minCode hlen]
  exact if_pos h

theorem lzwRun_of_minCode {s : State} (hlen : 1 ≤ s.latch.srcLen.toNat)
    (hlow : 2 ≤ (s.readByte s.latch.srcAddr.toNat).toNat) (hhigh : (s.readByte s.latch.srcAddr.toNat).toNat ≤ 8) :
    lzwRun s = lzwDecodeFrom s (s.readByte s.latch.srcAddr.toNat).toNat := by
  rw [lzwRun, srcByte_minCode hlen]
  exact if_neg (by omega)

/-! ### The completion (R132, R135, R136) -/

theorem State.conclude_failedWith (s : State) (out : Nat) (e : CmdError) :
    State.failedWith s (s.conclude out (some e) []) e.code e.info out := ⟨rfl, rfl, rfl⟩

/-- STATUS at the end of the stream (R135). -/
theorem Status.finished_streamFlags (f : Status) (z : Lzw) (n : Nat) :
    f.finished (streamFlags z n) =
      { f with busy := false, done := true, eoi := f.eoi || z.eoiSeen, short := f.short || decide (z.outPos < n) } := by
  rw [Status.finished_eq, streamFlags]
  cases z.eoiSeen <;> by_cases hshort : z.outPos < n <;> simp [hshort]

/-- A loop that ended as the reference completes as the reference tells. -/
theorem lzwComplete_of_endsAs {s : State} {x : LzwRun × LzwEnd}
    (h : LzwEndsAs s.mem s.latch.dst s.lzwData.2 x s.lzwResult) :
    ∃ t, lzwComplete s x.1 x.2 = .next t ∧ s.lzwCompletes t ∧ t.mem = x.1.mem := by
  obtain ⟨hwrote, heoi, hend⟩ := h
  have hpos := hwrote.outPos
  have hstream : ∀ b, x.1.z.eoiSeen = b → s.status.finished (streamFlags x.1.z s.latch.dst.len) =
      { s.status with
        busy := false, done := true, eoi := s.status.eoi || b
        short := s.status.short || decide (s.lzwResult.1.length < s.latch.dstLen.toNat) } := by
    rintro b rfl
    rw [Status.finished_streamFlags, hpos]
    rfl
  unfold State.lzwCompletes
  rw [hend, ← hpos]
  cases hr : s.lzwResult.2 with
  | endCode =>
    rw [hr] at heoi
    refine ⟨_, rfl, ⟨rfl, ?_, rfl⟩, rfl⟩
    rw [hpos]
    simpa using hstream true heoi
  | overrun =>
    refine ⟨_, rfl, ⟨rfl, ?_, rfl⟩, rfl⟩
    exact (Status.finished_eq s.status [.trunc]).trans (by simp)
  | badCode code nextCode => exact ⟨_, rfl, ⟨rfl, rfl, rfl, rfl⟩, rfl⟩
  | exhausted =>
    rw [hr] at heoi
    cases hd : s.lzwData.2 with
    | none =>
      refine ⟨_, rfl, ⟨rfl, ?_, rfl⟩, rfl⟩
      rw [hpos]
      simpa using hstream false heoi
    | some j => exact ⟨_, rfl, ⟨rfl, rfl, rfl, rfl⟩, rfl⟩

theorem exec_lzwDecode_sameRest {s t : State} (h : exec .lzwDecode s = .next t) : State.sameRest s t := by
  obtain ⟨hhost, hcrc, -⟩ := commandFrame .lzwDecode s t h
  exact ⟨hhost, hcrc (by simp) (by simp)⟩

/-- LZW_DECODE of a stream with a legal minimum code size: it completes as the reference tells, and writes its output. -/
theorem exec_lzwDecode_outcome {s : State} {a b : Nat} (hfits : s.latch.fits s.params a b) (hlen : 1 ≤ s.latch.srcLen.toNat)
    (hlow : 2 ≤ (s.readByte s.latch.srcAddr.toNat).toNat) (hhigh : (s.readByte s.latch.srcAddr.toNat).toNat ≤ 8) :
    ∃ t, exec .lzwDecode s = .next t ∧ s.lzwCompletes t ∧
      Memory.Written s.latch.dst.base s.lzwResult.1.length s.mem t.mem ∧
      ∀ k, k < s.lzwResult.1.length → t.readByte (s.latch.dstAddr.toNat + k) = s.lzwResult.1.getD k 0 := by
  rw [exec_lzwDecode_of_fits hfits, lzwRun_of_minCode hlen hlow hhigh]
  obtain ⟨-, -, hapart, -⟩ := hfits
  have hstart := Lzw.init_follows s.mem s.codeTable s.latch.dst hhigh (src := s.latch.src) hlen
  have hbound := lzwLoop_ne_unbounded hhigh (lzwBound s.latch.src) hstart.stands.fits hstart.stands.chained
    (by simp only [Lzw.bitsLeft, Lzw.init, lzwBound]; omega)
  have hends : LzwEndsAs s.mem s.latch.dst s.lzwData.2 _ s.lzwResult :=
    hstart.endsAs hhigh hapart _ (8 * s.lzwData.1.length + 1) hbound (Nat.lt_succ_self _)
  obtain ⟨t, ht, hcompletes, hmem⟩ := lzwComplete_of_endsAs hends
  refine ⟨t, ht, hcompletes, hmem ▸ hends.wrote.written, fun k hk => ?_⟩
  rw [State.readByte, hmem]
  exact hends.wrote.bytes k hk

/-! ### Every stream (R141) -/

theorem State.lzwResult_length_le (s : State) : s.lzwResult.1.length ≤ s.latch.dstLen.toNat :=
  lzwReference_length_le _ _ _ _ _ (Nat.zero_le _)

/-- OUT_COUNT is the length of the reference's output, which a 32-bit register holds. -/
theorem State.lzwCompletes.outCount_toNat {s t : State} (h : s.lzwCompletes t) : t.outCount.toNat = s.lzwResult.1.length := by
  have hle := s.lzwResult_length_le
  have := s.latch.dstLen.isLt
  rw [h.1, BitVec.toNat_ofNat, Nat.mod_eq_of_lt (by omega)]

/-- The rows of R141: the end of the stream, overrun, LZW_MINCODE, and the other errors. -/
def State.LzwEnded (s t : State) : Prop :=
  (t.status.err = false ∧ t.status.errcode = 0 ∧ t.errInfo = 0 ∧ t.status.trunc = false ∧
    (t.status.short = true ↔ t.outCount.toNat < s.latch.dstLen.toNat)) ∨
  (t.status.err = false ∧ t.status.errcode = 0 ∧ t.errInfo = 0 ∧ t.status.trunc = true ∧ t.status.short = false ∧
    t.status.eoi = false) ∨
  (t.status.err = true ∧ t.status.errcode = 0x07 ∧ t.status.trunc = false ∧ t.status.short = false ∧
    t.status.eoi = false ∧ t.outCount = 0 ∧ State.sameMem s t) ∨
  (t.status.err = true ∧ (t.status.errcode = 0x08 ∨ t.status.errcode = 0x05) ∧ t.status.trunc = false ∧
    t.status.short = false ∧ t.status.eoi = false)

/-- A running command starts from cleared flags (R260). -/
theorem State.lzwCompletes.ended {s t : State} (h : s.lzwCompletes t) (hok : s.StatusOk) (hbusy : s.status.busy = true) :
    s.LzwEnded t := by
  obtain ⟨-, herr, htrunc, hshort, heoi, hcode⟩ := hok.busyClear hbusy
  obtain ⟨-, hinfo⟩ := hok.busyResults hbusy
  have hcount := h.outCount_toNat
  obtain ⟨-, h⟩ := h
  unfold State.LzwEnded
  rw [hcount]
  cases hr : s.lzwResult.2 with
  | endCode =>
    rw [hr] at h
    obtain ⟨hstatus, hinfo'⟩ := h
    refine .inl ?_
    rw [hstatus, hinfo']
    simp [herr, hcode, hinfo, htrunc, hshort]
  | overrun =>
    rw [hr] at h
    obtain ⟨hstatus, hinfo'⟩ := h
    refine .inr (.inl ?_)
    rw [hstatus, hinfo']
    exact ⟨herr, hcode, hinfo, rfl, hshort, heoi⟩
  | badCode code nextCode =>
    rw [hr] at h
    obtain ⟨hstatus, -⟩ := h
    refine .inr (.inr (.inr ?_))
    rw [hstatus]
    exact ⟨rfl, .inl rfl, htrunc, hshort, heoi⟩
  | exhausted =>
    rw [hr] at h
    cases hd : s.lzwData.2 with
    | none =>
      rw [hd] at h
      obtain ⟨hstatus, hinfo'⟩ := h
      refine .inl ?_
      rw [hstatus, hinfo']
      simp [herr, hcode, hinfo, htrunc, hshort]
    | some j =>
      rw [hd] at h
      obtain ⟨hstatus, -⟩ := h
      refine .inr (.inr (.inr ?_))
      rw [hstatus]
      exact ⟨rfl, .inr rfl, htrunc, hshort, heoi⟩

/-- Every run from cleared flags ends by a row of R141, and writes no more than OUT_COUNT bytes of DST. -/
theorem exec_lzwDecode_ended {s t : State} (hfits : s.latch.fits s.params 0 0) (hbusy : s.status.busy = true) (hok : s.StatusOk)
    (ht : exec .lzwDecode s = .next t) :
    State.sameOutside s t s.latch.dstAddr.toNat t.outCount.toNat ∧ t.outCount.toNat ≤ s.latch.dstLen.toNat ∧ s.LzwEnded t := by
  obtain ⟨-, -, htrunc, hshort, heoi, -⟩ := hok.busyClear hbusy
  have hsame : State.sameMem s t → t.outCount = 0 → State.sameOutside s t s.latch.dstAddr.toNat t.outCount.toNat ∧
      t.outCount.toNat ≤ s.latch.dstLen.toNat := fun hmem hcount => by
    rw [hcount]
    exact ⟨fun a _ => hmem a, Nat.zero_le _⟩
  obtain hempty | hlen := Nat.eq_zero_or_pos s.latch.srcLen.toNat
  · cases ht.symm.trans ((exec_lzwDecode_of_fits hfits).trans (lzwRun_of_empty hempty))
    obtain ⟨hout, hle⟩ := hsame (fun _ => rfl) rfl
    exact ⟨hout, hle, .inr (.inr (.inr ⟨rfl, .inr rfl, htrunc, hshort, heoi⟩))⟩
  by_cases hm : (s.readByte s.latch.srcAddr.toNat).toNat < 2 ∨ 8 < (s.readByte s.latch.srcAddr.toNat).toNat
  · cases ht.symm.trans ((exec_lzwDecode_of_fits hfits).trans (lzwRun_of_badMinCode hlen hm))
    obtain ⟨hout, hle⟩ := hsame (fun _ => rfl) rfl
    exact ⟨hout, hle, .inr (.inr (.inl ⟨rfl, rfl, htrunc, hshort, heoi, rfl, fun _ => rfl⟩))⟩
  · obtain ⟨t', ht', hcompletes, hwritten, -⟩ := exec_lzwDecode_outcome hfits hlen (by omega) (by omega)
    cases ht.symm.trans ht'
    refine ⟨fun a ha => hwritten.memRead_outside (hcompletes.outCount_toNat ▸ ha), ?_, hcompletes.ended hok hbusy⟩
    exact hcompletes.outCount_toNat ▸ s.lzwResult_length_le

/-- Settles O40: every stream by the simulation of the reference, and from cleared flags the rows of R141. -/
theorem lzwOutcomes : Obligations.LzwOutcomes := by
  unfold Obligations.LzwOutcomes
  refine ⟨fun s hfits hlen hlow hhigh => ?_, fun s t hfits hbusy hok ht => ?_⟩
  · obtain ⟨t, ht, hcompletes, hwritten, hbytes⟩ := exec_lzwDecode_outcome hfits hlen hlow hhigh
    exact ⟨t, ht, hcompletes, fun a ha => hwritten.memRead_outside ha, exec_lzwDecode_sameRest ht, hbytes⟩
  · obtain ⟨hout, hle, hended⟩ := exec_lzwDecode_ended hfits hbusy hok ht
    obtain ⟨hdone, hidle⟩ := (exec_commandEnd ht).done
    exact ⟨hout, hle, hdone, hidle, exec_lzwDecode_sameRest ht, hended⟩

/-! ### The first bytes (R123, R137) -/

/-- A zero-length first sub-block: no data, and none missing. -/
theorem State.lzwData_of_emptyBlock {s : State} (hlen : 2 ≤ s.latch.srcLen.toNat)
    (hbyte : s.readByte (s.latch.srcAddr.toNat + 1) = 0) : s.lzwData = ([], none) := by
  show subBlockData 1 0 (srcRest s.mem s.latch.src 1) = _
  have hbyte : memRead s.mem (s.latch.src.base + 1) = 0 := hbyte
  rw [srcRest_of_lt _ _ hlen, hbyte]
  rfl

theorem State.lzwResult_of_emptyBlock {s : State} (h : s.lzwData = ([], none)) : s.lzwResult = ([], .exhausted) := by
  rw [State.lzwResult, h]
  exact lzwReference_exhausted 0 (Nat.succ_pos _)

/-- No writes leave MEM as it is. -/
theorem Memory.Written.eq_of_zero {base : Nat} {m m' : Memory} (h : Memory.Written base 0 m m') : m' = m := by
  cases h with
  | refl => rfl
  | write j v hj => exact absurd hj (Nat.not_lt_zero j)

/-- Settles O41: SRC empty and LZW_MINCODE end before the loop; the empty stream is a case of the outcomes. -/
theorem lzwFirstBytes : Obligations.LzwFirstBytes := by
  unfold Obligations.LzwFirstBytes
  intro s hfits
  refine ⟨fun hlen => ?_, fun hlen hm => ?_, fun hlen hlow hhigh hbyte => ?_⟩
  · have ht : exec .lzwDecode s = .next _ := (exec_lzwDecode_of_fits hfits).trans (lzwRun_of_empty hlen)
    exact ⟨_, ht, s.conclude_failedWith 0 _, rfl, exec_lzwDecode_sameRest ht⟩
  · have ht : exec .lzwDecode s = .next _ :=
      (exec_lzwDecode_of_fits hfits).trans (lzwRun_of_badMinCode (Nat.one_le_iff_ne_zero.2 hlen) hm)
    exact ⟨_, ht, s.conclude_failedWith 0 _, rfl, exec_lzwDecode_sameRest ht⟩
  · obtain ⟨t, ht, hcompletes, hwritten, -⟩ := exec_lzwDecode_outcome hfits (Nat.le_of_succ_le hlen) hlow hhigh
    have hdata := State.lzwData_of_emptyBlock hlen hbyte
    simp only [State.lzwCompletes, State.lzwResult_of_emptyBlock hdata, hdata] at hcompletes hwritten
    obtain ⟨hcount, hstatus, hinfo⟩ := hcompletes
    exact ⟨t, ht, hstatus, hcount, hinfo, hwritten.eq_of_zero, exec_lzwDecode_sameRest ht⟩

end Sys2Proof.Machine
end

section
/-! SUPPORT. LZW_DECODE on a stream of cleared roots (R121 to R128): its codes read bit by bit from MEM, and what the reference decoding
makes of them. -/

namespace Sys2Proof.Machine

/-! ### The data bytes in MEM (R125, R126) -/

/-- Bit `i` of the data is bit `i mod 8` of data byte `i div 8` (R126). -/
theorem dataNumber_testBit (d : List Byte) (i : Nat) :
    (dataNumber d).testBit i = (d.getD (i / 8) 0).toNat.testBit (i % 8) := by
  induction d generalizing i with
  | nil => simp [dataNumber]
  | cons b d ih =>
    rw [dataNumber, Nat.add_comm, show 256 = 2 ^ 8 from rfl, Nat.testBit_two_pow_mul_add _ b.isLt]
    obtain hlow | hhigh := Nat.lt_or_ge i 8
    · rw [if_pos hlow, Nat.div_eq_of_lt hlow, Nat.mod_eq_of_lt hlow, List.getD_cons_zero]
    · obtain ⟨k, rfl⟩ := Nat.exists_eq_add_of_le' hhigh
      rw [if_neg (by omega), Nat.add_sub_cancel, ih, Nat.add_div_right _ (by decide), Nat.add_mod_right, List.getD_cons_succ]

/-- A code read bit by bit from MEM, where the data bytes are those of MEM (R126). -/
theorem codeAt_eq {m : Memory} {base n : Nat} {d : List Byte} (hd : ∀ i, i < n → d.getD i 0 = memRead m (base + i))
    (width : Nat) {pos : Nat} (hpos : pos + width ≤ 8 * n) : codeAt m base pos width = dataNumber d / 2 ^ pos % 2 ^ width := by
  induction width generalizing pos with
  | zero => rw [codeAt, Nat.pow_zero, Nat.mod_one]
  | succ width ih =>
    have hbit : bitAt m base pos = dataNumber d / 2 ^ pos % 2 := by
      rw [bitAt, ← hd (pos / 8) (by omega), ← Nat.toNat_testBit, ← Nat.toNat_testBit, dataNumber_testBit]
    rw [codeAt, ih (by omega), hbit, Nat.pow_succ' (n := width), Nat.mod_mul, Nat.div_div_eq_div_mul, Nat.pow_succ]

/-- The bytes of a sub-block are the next data bytes (R125). -/
theorem subBlockData_getElem? {rem i : Nat} (hi : i < rem) (j : Nat) (bs : List Byte) :
    (subBlockData j rem bs).1[i]? = bs[i]? := by
  induction bs generalizing j rem i with
  | nil => rw [subBlockData]
  | cons b bs ih =>
    obtain ⟨rem, rfl⟩ := Nat.exists_eq_succ_of_ne_zero (Nat.ne_zero_of_lt hi)
    rw [subBlockData]
    cases i with
    | zero => rfl
    | succ i => exact ih (Nat.lt_of_succ_lt_succ hi) (j + 1)

theorem srcRest_getElem? (m : Memory) (src : Region) {j i : Nat} (h : j + i < src.len) :
    (srcRest m src j)[i]? = some (memRead m (src.base + j + i)) := by
  have hi : i < src.len - j := by omega
  simp [srcRest, hi]

/-- A first sub-block of `n` bytes, all of them in SRC, gives the first `n` data bytes. -/
theorem State.lzwData_of_firstBlock {s : State} {n : Nat} (hn : n = (s.readByte (s.latch.srcAddr.toNat + 1)).toNat)
    (hlen : 2 + n ≤ s.latch.srcLen.toNat) {i : Nat} (hi : i < n) :
    s.lzwData.1[i]? = some (memRead s.mem (s.latch.srcAddr.toNat + 2 + i)) := by
  have hdata : s.lzwData = subBlockData 2 n (srcRest s.mem s.latch.src 2) := by
    show subBlockData 1 0 (srcRest s.mem s.latch.src 1) = _
    have hbyte : (memRead s.mem (s.latch.src.base + 1)).toNat = n := hn.symm
    rw [srcRest_of_lt _ _ (show 1 < s.latch.srcLen.toNat by omega), subBlockData, hbyte, if_neg (by omega)]
  rw [hdata, subBlockData_getElem? hi]
  exact srcRest_getElem? s.mem s.latch.src (show 2 + i < s.latch.srcLen.toNat by omega)

/-! ### The reference on cleared roots -/

/-- The data hold a clear code before each of the root codes `r 0`, …, `r (n - 1)`, and the end code after them. -/
structure ClearedRoots (m : Nat) (d : List Byte) (n : Nat) (r : Nat → Nat) : Prop where
  bits    : (2 * n + 1) * (m + 1) ≤ 8 * d.length
  clear   : ∀ k, k < n → dataNumber d / 2 ^ (2 * k * (m + 1)) % 2 ^ (m + 1) = 2 ^ m
  root    : ∀ k, k < n → dataNumber d / 2 ^ ((2 * k + 1) * (m + 1)) % 2 ^ (m + 1) = r k
  root_lt : ∀ k, k < n → r k < 2 ^ m
  endCode : dataNumber d / 2 ^ (2 * n * (m + 1)) % 2 ^ (m + 1) = 2 ^ m + 1

/-- The first `k` roots as bytes. -/
def rootBytes (r : Nat → Nat) (k : Nat) : List Byte := (List.range k).map fun i => BitVec.ofNat 8 (r i)

theorem rootBytes_succ (r : Nat → Nat) (k : Nat) : rootBytes r (k + 1) = rootBytes r k ++ [BitVec.ofNat 8 (r k)] := by
  rw [rootBytes, List.range_succ, List.map_append]
  rfl

theorem rootBytes_length (r : Nat → Nat) (k : Nat) : (rootBytes r k).length = k := by
  rw [rootBytes, List.length_map, List.length_range]

theorem rootBytes_getD (r : Nat → Nat) {k n : Nat} (h : k < n) : (rootBytes r n).getD k 0 = BitVec.ofNat 8 (r k) := by
  simp [rootBytes, h]

/-- From the clear code of root `k` on, the reference puts out the roots that are left. -/
theorem lzwReference_clearedRoots {m n dstLen : Nat} {d : List Byte} {r : Nat → Nat} (h : ClearedRoots m d n r)
    (hdst : n ≤ dstLen) (left : Nat) {k fuel : Nat} {p : LzwPoint} (hk : k + left = n) (hfuel : 2 * left < fuel) (hpos : p.pos = 2 * k * (m + 1))
    (hwidth : p.width = m + 1) (hout : p.out = rootBytes r k) :
    lzwReference m d dstLen fuel p = (rootBytes r n, .endCode) := by
  induction left generalizing k fuel p with
  | zero =>
    obtain rfl : k = n := hk
    obtain ⟨fuel, rfl⟩ : ∃ l, fuel = l + 1 := ⟨fuel - 1, by omega⟩
    have hroom : p.pos + p.width ≤ 8 * d.length := by
      rw [hpos, hwidth, ← Nat.succ_mul]
      exact h.bits
    rw [lzwReference_endCode fuel hroom (by rw [LzwPoint.code, hpos, hwidth, h.endCode]), hout]
  | succ left ih =>
    have hkn : k < n := by omega
    obtain ⟨fuel, rfl⟩ : ∃ l, fuel = l + 2 := ⟨fuel - 2, by omega⟩
    have hroot : (p.clear m).pos = (2 * k + 1) * (m + 1) := by
      show p.pos + p.width = _
      rw [hpos, hwidth]
      ring
    have hnext : (2 * k + 1) * (m + 1) + (m + 1) = 2 * (k + 1) * (m + 1) := by ring
    have hroom : 2 * (k + 1) * (m + 1) ≤ 8 * d.length :=
      (Nat.mul_le_mul_right (m + 1) (show 2 * (k + 1) ≤ 2 * n + 1 by omega)).trans h.bits
    have hcode : (p.clear m).code d = r k := by
      rw [LzwPoint.code, hroot]
      exact h.root k hkn
    have hlt := h.root_lt k hkn
    have hfit : ¬ dstLen < (p.clear m).out.length + [BitVec.ofNat 8 (r k)].length := by
      rw [LzwPoint.clear, hout, rootBytes_length, List.length_singleton]
      omega
    rw [lzwReference_clear (fuel + 1) (by rw [hpos, hwidth]; linarith) (by rw [LzwPoint.code, hpos, hwidth, h.clear k hkn]),
      lzwReference_ordinary fuel (by rw [hroot]; exact hnext.trans_le hroom) (by omega) (by omega), hcode,
      LzwPoint.string_root hlt]
    simp only [if_neg hfit]
    rw [LzwPoint.emit_of_skip _ (.inl rfl)]
    refine ih (k := k + 1) (by omega) (by omega) ?_ rfl ?_
    · rw [hroot]
      exact hnext
    · rw [rootBytes_succ, ← hout]
      rfl

/-! ### The command -/

/-- The codes that the claim reads from MEM are those of the data. -/
theorem State.lzwData_clearedRoots {s : State} {m n len : Nat} (hlen : len = (s.readByte (s.latch.srcAddr.toNat + 1)).toNat)
    (hsrc : 2 + len ≤ s.latch.srcLen.toNat) (hbits : (2 * n + 1) * (m + 1) ≤ 8 * len)
    (hclear : ∀ k, k < n → codeAt s.mem (s.latch.srcAddr.toNat + 2) (2 * k * (m + 1)) (m + 1) = 2 ^ m)
    (hroot : ∀ k, k < n → codeAt s.mem (s.latch.srcAddr.toNat + 2) ((2 * k + 1) * (m + 1)) (m + 1) < 2 ^ m)
    (hend : codeAt s.mem (s.latch.srcAddr.toNat + 2) (2 * n * (m + 1)) (m + 1) = 2 ^ m + 1) :
    ClearedRoots m s.lzwData.1 n fun k => codeAt s.mem (s.latch.srcAddr.toNat + 2) ((2 * k + 1) * (m + 1)) (m + 1) := by
  have hdata : ∀ i, i < len → s.lzwData.1[i]? = some (memRead s.mem (s.latch.srcAddr.toNat + 2 + i)) :=
    fun i hi => State.lzwData_of_firstBlock hlen hsrc hi
  have hlength : len ≤ s.lzwData.1.length := by
    obtain rfl | hpos := Nat.eq_zero_or_pos len
    · exact Nat.zero_le _
    · obtain ⟨hlast, -⟩ := List.getElem?_eq_some_iff.1 (hdata (len - 1) (Nat.sub_one_lt_of_lt hpos))
      omega
  have hcode : ∀ c, c < 2 * n + 1 → codeAt s.mem (s.latch.srcAddr.toNat + 2) (c * (m + 1)) (m + 1) =
      dataNumber s.lzwData.1 / 2 ^ (c * (m + 1)) % 2 ^ (m + 1) := fun c hc => by
    refine codeAt_eq (fun i hi => by rw [List.getD_eq_getElem?_getD, hdata i hi, Option.getD_some]) (m + 1) (le_trans ?_ hbits)
    rw [← Nat.succ_mul]
    exact Nat.mul_le_mul_right _ hc
  exact {
    bits := hbits.trans (Nat.mul_le_mul_left 8 hlength)
    clear := fun k hk => (hcode (2 * k) (by omega)).symm.trans (hclear k hk)
    root := fun k hk => (hcode (2 * k + 1) (by omega)).symm
    root_lt := hroot
    endCode := (hcode (2 * n) (by omega)).symm.trans hend }

theorem State.lzwResult_of_clearedRoots {s : State} {n : Nat} {r : Nat → Nat}
    (h : ClearedRoots (s.readByte s.latch.srcAddr.toNat).toNat s.lzwData.1 n r) (hdst : n ≤ s.latch.dstLen.toNat) :
    s.lzwResult = (rootBytes r n, .endCode) := by
  have hturns := (Nat.le_mul_of_pos_right (2 * n + 1) (Nat.succ_pos (s.readByte s.latch.srcAddr.toNat).toNat)).trans h.bits
  exact lzwReference_clearedRoots h hdst n (Nat.zero_add n) (by omega) (by simp [LzwPoint.start]) rfl rfl

/-- Settles O39: the codes of MEM are those of the data, and the reference of such a stream gives the roots. -/
theorem lzwDecodesClearedRoots : Obligations.LzwDecodesClearedRoots := by
  unfold Obligations.LzwDecodesClearedRoots
  rintro s m n hfits rfl hlow hhigh hbits hclear hroot hend
  obtain ⟨-, -, -, hsrc, hdst⟩ := id hfits
  have hroots := State.lzwData_clearedRoots rfl hsrc hbits hclear hroot hend
  obtain ⟨t, ht, hcompletes, hwritten, hbytes⟩ := exec_lzwDecode_outcome hfits (by omega) hlow hhigh
  rw [State.lzwCompletes, State.lzwResult_of_clearedRoots hroots hdst, rootBytes_length] at hcompletes
  rw [State.lzwResult_of_clearedRoots hroots hdst, rootBytes_length] at hwritten hbytes
  obtain ⟨hcount, hstatus, hinfo⟩ := hcompletes
  refine ⟨t, ht, hstatus, hcount, hinfo, fun a ha => hwritten.memRead_outside ha, exec_lzwDecode_sameRest ht, fun k hk => ?_⟩
  have hbyte : 2 ^ (s.readByte s.latch.srcAddr.toNat).toNat ≤ 2 ^ 8 := Nat.pow_le_pow_right (by decide) hhigh
  rw [hbytes k hk, rootBytes_getD _ hk, BitVec.toNat_ofNat, Nat.mod_eq_of_lt ((hroot k hk).trans_le hbyte)]

end Sys2Proof.Machine
end

section
/-! SUPPORT. The predictors (R163 to R166): what each filter type adds to a byte, and which raw bytes its neighbours are. -/

namespace Sys2Proof.Machine

/-! ### Predictors -/

/-- The Paeth predictor by distances on the integers (R165). -/
theorem paethOf_eq (a b c : Byte) (p : Int) (hp : p = (a.toNat : Int) + b.toNat - c.toNat) :
    paethOf a b c =
      if |p - a.toNat| ≤ |p - b.toNat| ∧ |p - a.toNat| ≤ |p - c.toNat| then a
      else if |p - b.toNat| ≤ |p - c.toNat| then b else c := by
  subst hp
  simp only [paethOf, Int.abs_eq_natAbs, Nat.cast_le]

theorem paethOf_eq_or (a b c : Byte) : paethOf a b c = a ∨ paethOf a b c = b ∨ paethOf a b c = c := by
  rw [paethOf_eq a b c _ rfl]
  split
  · exact .inl rfl
  · split
    · exact .inr (.inl rfl)
    · exact .inr (.inr rfl)

/-- The sum of Average fits nine bits, so its half fits a byte (R164). -/
theorem FilterType.pred_average_toNat (n : Neighbours) :
    (FilterType.average.pred n).toNat = (n.a.toNat + n.b.toNat) / 2 := by
  have ha := n.a.isLt
  have hb := n.b.isLt
  rw [FilterType.pred, BitVec.toNat_ofNat, Nat.mod_eq_of_lt (by omega)]

theorem FilterType.exists_ofCode_iff (code : Nat) : (∃ ft, FilterType.ofCode code = some ft) ↔ code ≤ 4 := by
  rw [← Option.isSome_iff_exists, ← not_iff_not, Option.not_isSome_iff_eq_none]
  exact FilterType.ofCode_eq_none_iff code

/-- Settles O44: the distances decide between the three neighbours; the other predictors and the neighbours by their cases. -/
theorem paethPicksTheNearest : Obligations.PaethPicksTheNearest := by
  unfold Obligations.PaethPicksTheNearest
  refine ⟨fun a b c => ?_, fun code ft n hft => ?_, FilterType.exists_ofCode_iff, fun raw bytesPP y x => ?_⟩
  · intro p
    refine ⟨fun hb hc => ?_, fun ha hc => ?_, fun ha hb => ?_, paethOf_eq_or a b c⟩ <;> rw [paethOf_eq a b c p rfl]
    · exact if_pos ⟨hb, hc⟩
    · rw [if_neg fun h => absurd h.1 (not_le.2 ha), if_pos hc]
    · rw [if_neg fun h => absurd h.2 (not_le.2 ha), if_neg (not_le.2 hb)]
  · refine ⟨?_, ?_, ?_, ?_, ?_⟩ <;> rintro rfl <;> cases hft
    · rfl
    · rfl
    · rfl
    · exact FilterType.pred_average_toNat n
    · rfl
  · refine ⟨fun k hk => ?_, ?_, ?_, ?_, ?_, ?_⟩
    · exact ⟨if_neg (not_le.2 hk), if_neg fun h => absurd h.1 (not_le.2 hk)⟩
    all_goals simp [neighbours]

end Sys2Proof.Machine
end

section
/-! SUPPORT. UNFILTER and FILTER byte by byte (R160 to R171): both write the rows of an image in row-major order, and what holds of a byte
when it is written holds of it at the end. -/

namespace Sys2Proof.Machine

/-! ### Row-major order -/

/-- Byte `x'` of row `y'` comes before byte `x` of row `y`. -/
def ScanBefore (y' x' y x : Nat) : Prop := y' < y ∨ (y' = y ∧ x' < x)

theorem scanBefore_offset_lt {n y' x' y x : Nat} (hx : x' < n) (h : ScanBefore y' x' y x) : y' * n + x' < y * n + x := by
  obtain hy | ⟨rfl, hlt⟩ := h
  · exact Nat.lt_add_right x (row_offset_lt hy hx)
  · exact Nat.add_lt_add_left hlt _

theorem scanBefore_succ_iff (y' x' y x : Nat) :
    ScanBefore y' x' y (x + 1) ↔ ScanBefore y' x' y x ∨ (y' = y ∧ x' = x) := by
  unfold ScanBefore
  omega

/-- A row is done when its `n` bytes are. -/
theorem scanBefore_nextRow {n y' x' y : Nat} (hx : x' < n) (h : ScanBefore y' x' (y + 1) 0) : ScanBefore y' x' y n := by
  unfold ScanBefore at *
  omega

/-- The neighbours of a byte come before it (R163). -/
theorem neighbours_congr {raw raw' : Nat → Nat → Byte} {bytesPP y x : Nat} (hpp : 0 < bytesPP)
    (h : ∀ y' x', x' ≤ x → ScanBefore y' x' y x → raw' y' x' = raw y' x') :
    neighbours raw' bytesPP y x = neighbours raw bytesPP y x := by
  have hleft : bytesPP ≤ x → raw' y (x - bytesPP) = raw y (x - bytesPP) :=
    fun hx => h _ _ (Nat.sub_le _ _) (.inr ⟨rfl, by omega⟩)
  have hrow : ∀ x', x' ≤ x → 1 ≤ y → raw' (y - 1) x' = raw (y - 1) x' := fun x' hx hy => h _ _ hx (.inl (by omega))
  rw [neighbours, neighbours, Neighbours.mk.injEq]
  exact ⟨ite_congr rfl hleft fun _ => rfl, ite_congr rfl (hrow x le_rfl) fun _ => rfl,
    ite_congr rfl (fun hc => hrow _ (Nat.sub_le _ _) hc.2) fun _ => rfl⟩

/-! ### Rows written in row-major order -/

/-- A property of a byte of an image that depends on this byte and the ones before it. -/
def Causal (n : Nat) (P : (Nat → Nat → Byte) → Nat → Nat → Prop) : Prop :=
  ∀ raw raw' y x, x < n → (∀ y' x', x' < n → ScanBefore y' x' y (x + 1) → raw' y' x' = raw y' x') → P raw y x → P raw' y x

/-- `m` is `m₀` with the bytes before byte `x` of row `y` written into an image of `n` bytes a row at `base`, and `P` holds of them. -/
structure RowsDone (P : (Nat → Nat → Byte) → Nat → Nat → Prop) (base n : Nat) (m₀ : Memory) (y x : Nat) (m : Memory) : Prop where
  written : Memory.Written base (y * n + x) m₀ m
  bytes   : ∀ y' x', x' < n → ScanBefore y' x' y x → P (rawByte m base n) y' x'

theorem rawByte_memWrite_self (m : Memory) (base n y x : Nat) (v : Byte) :
    rawByte (memWrite m (base + (y * n + x)) v) base n y x = v := by
  rw [rawByte, Nat.add_assoc, memRead_memWrite_self]

theorem rawByte_memWrite_before {n y' x' y x : Nat} (m : Memory) (base : Nat) (v : Byte) (hx : x' < n)
    (h : ScanBefore y' x' y x) : rawByte (memWrite m (base + (y * n + x)) v) base n y' x' = rawByte m base n y' x' := by
  have := scanBefore_offset_lt hx h
  rw [rawByte, rawByte, memRead_memWrite_ne _ _ _ _ (by omega)]

section
variable {P : (Nat → Nat → Byte) → Nat → Nat → Prop} {base n : Nat} {m₀ m : Memory} {y x : Nat}

theorem RowsDone.start : RowsDone P base n m₀ 0 0 m₀ where
  written := .refl
  bytes := fun _ _ _ h => by unfold ScanBefore at h; omega

/-- The next byte: `P` holds of it whenever it has the written value and the bytes before it stay. -/
theorem RowsDone.write (h : RowsDone P base n m₀ y x m) (hP : Causal n P) (v : Byte)
    (hv : ∀ raw, raw y x = v → (∀ y' x', x' < n → ScanBefore y' x' y x → raw y' x' = rawByte m base n y' x') → P raw y x) :
    RowsDone P base n m₀ y (x + 1) (memWrite m (base + (y * n + x)) v) where
  written := (h.written.mono (Nat.le_succ _)).write _ _ (Nat.lt_succ_self _)
  bytes := fun y' x' hx' hbefore => by
    have hkeep : ∀ y' x', x' < n → ScanBefore y' x' y x →
        rawByte (memWrite m (base + (y * n + x)) v) base n y' x' = rawByte m base n y' x' :=
      fun _ _ => rawByte_memWrite_before m base v
    obtain hold | ⟨rfl, rfl⟩ := (scanBefore_succ_iff _ _ _ _).1 hbefore
    · refine hP _ _ y' x' hx' (fun y'' x'' hx'' hb => hkeep _ _ hx'' ?_) (h.bytes y' x' hx' hold)
      unfold ScanBefore at *
      omega
    · exact hv _ (rawByte_memWrite_self _ _ _ _ _ _) hkeep

theorem RowsDone.nextRow (h : RowsDone P base n m₀ y n m) : RowsDone P base n m₀ (y + 1) 0 m where
  written := by
    have hoff : (y + 1) * n + 0 = y * n + n := Nat.succ_mul y n
    rw [hoff]
    exact h.written
  bytes := fun y' x' hx' hbefore => h.bytes y' x' hx' (scanBefore_nextRow hx' hbefore)

/-- The rows before row `y`, byte by byte. -/
theorem RowsDone.byte (h : RowsDone P base n m₀ y 0 m) {y' x' : Nat} (hy : y' < y) (hx : x' < n) : P (rawByte m base n) y' x' :=
  h.bytes y' x' hx (.inl hy)

theorem RowsDone.memRead_outside (h : RowsDone P base n m₀ y 0 m) {a : Nat} (ha : a < base ∨ base + y * n ≤ a) :
    memRead m a = memRead m₀ a :=
  h.written.memRead_outside ha

end

/-- Writes to DST leave SRC as it is, where the two are apart (R267). -/
theorem Memory.Written.agreeOn_apart {src needed base n len : Nat} {m₀ m : Memory} (h : Memory.Written base n m₀ m)
    (hap : Apart src needed base len) (hn : n ≤ len) : m₀.AgreeOn (fun a => ∃ i, i < needed ∧ a = src + i) m := by
  rintro _ ⟨i, hi, rfl⟩
  unfold Apart at hap
  exact h.memRead_outside (by omega)

/-- A raising loop ends with the first turn that raises. -/
theorem sweep_of_raised {σ : Type} (f : Nat → σ → σ × Option CmdError) {k n : Nat} {s s' x : σ} {e : CmdError}
    (hs : sweep f k s = (x, none)) (hf : f k x = (s', some e)) (hk : k < n) : sweep f n s = (s', some e) := by
  induction n, hk using Nat.le_induction with
  | base => rw [sweep_succ_of_none f k s x hs, hf]
  | succ n _ ih => exact sweep_succ_of_some f n s s' e ih

/-! ### The start of the row commands -/

section
variable {L : Args} {p : Params} {srcNeeded dstNeeded : Nat} (h : L.fits p srcNeeded dstNeeded)
include h

theorem Args.fits.firstError_rasterChecks : firstError (rasterChecks p L srcNeeded dstNeeded) = none := by
  obtain ⟨hsrc, hdst, hapart, hs, hd⟩ := h
  rw [firstError_eq_none]
  simpa [rasterChecks, srcDstChecks] using ⟨hsrc, hdst, hapart, hs, hd⟩

/-- What a command reads of SRC is apart from what it writes of DST. -/
theorem Args.fits.apart_needed : Apart L.srcAddr.toNat srcNeeded L.dstAddr.toNat dstNeeded := by
  obtain ⟨-, -, hapart, hs, hd⟩ := h
  unfold Apart at *
  omega

end

theorem exec_unfilter_of_fits {s : State} {f : PixFmt} (hf : formatFor .unfilter s.latch = some f)
    (h : s.latch.fits s.params (s.latch.raster f).filteredLen (s.latch.raster f).rawLen) :
    exec .unfilter s = .next (unfilterRun s (s.latch.raster f)) := by
  rw [exec, execUnfilter, hf]
  exact congrArg _ (State.checked_of_none _ _ _ h.firstError_rasterChecks)

theorem exec_filter_of_fits {s : State} {f : PixFmt} {code : Nat} {ft : FilterType} (hft : FilterType.ofCode code = some ft)
    (hf : formatFor .filter s.latch = some f)
    (h : s.latch.fits s.params (s.latch.raster f).rawLen (s.latch.raster f).filteredLen) :
    exec (.filter code) s = .next (filterRun s (s.latch.raster f) code ft) := by
  rw [exec, execFilter, hft, hf]
  exact congrArg _ (State.checked_of_none _ _ _ h.firstError_rasterChecks)

/-- UNFILTER accepts any FORMAT that another command accepts (R266). -/
theorem formatFor_unfilter_of {c : FormatUser} {L L' : Args} {f : PixFmt} (h : formatFor c L = some f)
    (hformat : L'.format = L.format) : formatFor .unfilter L' = some f := by
  obtain ⟨hpix, -⟩ := (formatFor_eq_some_iff c L f).1 h
  exact (formatFor_eq_some_iff _ _ _).2 ⟨hformat ▸ hpix, rfl⟩

theorem formatFor_bytesPP_pos {c : FormatUser} {L : Args} {f : PixFmt} (h : formatFor c L = some f) : 0 < f.bytesPP := by
  obtain ⟨hpos, -⟩ := f.bitsPP_pos_and_packed_or_whole (formatFor_depth_mem h)
  rw [PixFmt.bytesPP, ceilDiv_eight]
  omega

/-- A state after a row command: MEM, the counters and the completion after `rows` rows. -/
def State.afterRows (s : State) (m : Memory) (rows : Nat) (e : Option CmdError) : State :=
  ((s.withMem m).withCounters (rowCounters s rows)).conclude rows e []

theorem unfilterRun_eq (s : State) (r : Raster) :
    unfilterRun s r = s.afterRows (unfilterRows r s.mem).1.mem (unfilterRows r s.mem).1.rows (unfilterRows r s.mem).2 := rfl

theorem filterRun_eq (s : State) (r : Raster) (code : Nat) (ft : FilterType) :
    filterRun s r code ft = s.afterRows (loop (filterRow r code ft) r.h s.mem) r.h none := rfl

section
variable (s : State) (m : Memory) (rows : Nat) (e : Option CmdError)

@[simp] theorem State.afterRows_readByte (a : Nat) : (s.afterRows m rows e).readByte a = memRead m a := by cases e <;> rfl

@[simp] theorem State.afterRows_mem : (s.afterRows m rows e).mem = m := by cases e <;> rfl

theorem State.afterRows_completedWith : State.completedWith s (s.afterRows m rows none) rows := ⟨rfl, rfl, rfl⟩

theorem State.afterRows_failedWith (err : CmdError) :
    State.failedWith s (s.afterRows m rows (some err)) err.code err.info rows := ⟨rfl, rfl, rfl⟩

theorem State.afterRows_sameRest : State.sameRest s (s.afterRows m rows e) :=
  ⟨(s.withMem_withCounters_workFrame .unfilter m _).hostSide.trans (State.conclude_sameHostSide _ rows e []),
    State.conclude_crcState _ _ _ _⟩

theorem State.afterRows_sameUnits : State.SameUnits s (s.afterRows m rows e) :=
  ⟨State.conclude_codeTable _ _ _ _, State.conclude_lzw _ _ _ _, State.conclude_lineBuf _ _ _ _, State.conclude_packRow _ _ _ _⟩

end

/-! ### UNFILTER (R161) -/

/-- Byte `x` of row `y` of `raw` is the filtered byte of the stream in `m₀` plus the predictor of its neighbours in `raw` (R161). -/
def Reconstructs (m₀ : Memory) (r : Raster) (raw : Nat → Nat → Byte) (y x : Nat) : Prop :=
  ∃ ft, FilterType.ofCode (memRead m₀ (r.src + y * (1 + r.bpl))).toNat = some ft ∧
    raw y x = memRead m₀ (r.src + y * (1 + r.bpl) + 1 + x) + ft.pred (neighbours raw r.fmt.bytesPP y x)

theorem reconstructs_causal (m₀ : Memory) {r : Raster} (hpp : 0 < r.fmt.bytesPP) : Causal r.bpl (Reconstructs m₀ r) := by
  rintro raw raw' y x hx hsame ⟨ft, hft, hraw⟩
  refine ⟨ft, hft, ?_⟩
  rw [hsame y x hx (.inr ⟨rfl, Nat.lt_succ_self x⟩), hraw, neighbours_congr hpp fun y' x' hx' hb =>
    hsame y' x' (lt_of_le_of_lt hx' hx) ((scanBefore_succ_iff _ _ _ _).2 (.inl hb))]

/-- The filtered stream determines the image. -/
theorem Reconstructs.unique {m₀ : Memory} {r : Raster} {raw raw' : Nat → Nat → Byte} {rows : Nat} (hpp : 0 < r.fmt.bytesPP)
    (h : ∀ y x, y < rows → x < r.bpl → Reconstructs m₀ r raw y x)
    (h' : ∀ y x, y < rows → x < r.bpl → Reconstructs m₀ r raw' y x) {y x : Nat} (hy : y < rows) (hx : x < r.bpl) :
    raw' y x = raw y x := by
  induction y using Nat.strong_induction_on generalizing x with
  | _ y ihy =>
  induction x using Nat.strong_induction_on with
  | _ x ihx =>
  obtain ⟨ft, hft, hraw⟩ := h y x hy hx
  obtain ⟨ft', hft', hraw'⟩ := h' y x hy hx
  obtain rfl : ft' = ft := Option.some.inj (hft'.symm.trans hft)
  rw [hraw, hraw', neighbours_congr hpp]
  rintro y' x' hx' (hrow | ⟨rfl, hlt⟩)
  · exact ihy y' hrow (hrow.trans hy) (lt_of_le_of_lt hx' hx)
  · exact ihx x' hlt (hlt.trans hx)

/-- The type byte of a row is still the one of `m₀` when the row begins. -/
theorem rowType_of_rowsDone {P : (Nat → Nat → Byte) → Nat → Nat → Prop} {r : Raster} {m₀ m : Memory} {y : Nat}
    (hap : Apart r.src r.filteredLen r.dst r.rawLen) (hy : y < r.h) (h : RowsDone P r.dst r.bpl m₀ y 0 m) :
    memRead m (r.src + y * (1 + r.bpl)) = memRead m₀ (r.src + y * (1 + r.bpl)) :=
  h.written.agreeOn_apart hap (Nat.mul_le_mul_right r.bpl hy.le) _ ⟨_, row_offset_lt (x := 0) hy (by omega), rfl⟩

section
variable {r : Raster} {m₀ : Memory} (hpp : 0 < r.fmt.bytesPP) (hap : Apart r.src r.filteredLen r.dst r.rawLen)
include hpp hap

/-- One byte of UNFILTER: the filtered byte is still the one of `m₀`, and the neighbours are read back from DST (R162). -/
theorem unfilterByte_rowsDone {y x : Nat} {m : Memory} {ft : FilterType} (hy : y < r.h) (hx : x < r.bpl)
    (hft : FilterType.ofCode (memRead m₀ (r.src + y * (1 + r.bpl))).toNat = some ft)
    (h : RowsDone (Reconstructs m₀ r) r.dst r.bpl m₀ y x m) :
    RowsDone (Reconstructs m₀ r) r.dst r.bpl m₀ y (x + 1) (unfilterByte r ft y x m) := by
  have hsrc : memRead m (r.src + y * (1 + r.bpl) + 1 + x) = memRead m₀ (r.src + y * (1 + r.bpl) + 1 + x) := by
    rw [Nat.add_assoc, Nat.add_assoc]
    exact h.written.agreeOn_apart hap (row_offset_lt hy hx).le _ ⟨_, row_offset_lt hy (by omega), rfl⟩
  rw [unfilterByte, hsrc, Nat.add_assoc r.dst]
  refine h.write (reconstructs_causal m₀ hpp) _ fun raw hself hbefore => ⟨ft, hft, ?_⟩
  rw [hself, neighbours_congr hpp fun y' x' hx' hb => hbefore y' x' (lt_of_le_of_lt hx' hx) hb]

/-- A row whose type is legal is reconstructed. -/
theorem unfilterRow_rowsDone {y : Nat} {k : RowWork} (hy : y < r.h)
    (htype : (memRead m₀ (r.src + y * (1 + r.bpl))).toNat ≤ 4)
    (hk : RowsDone (Reconstructs m₀ r) r.dst r.bpl m₀ y 0 k.mem) :
    (unfilterRow r y k).2 = none ∧ (unfilterRow r y k).1.rows = y + 1 ∧
      RowsDone (Reconstructs m₀ r) r.dst r.bpl m₀ (y + 1) 0 (unfilterRow r y k).1.mem := by
  obtain ⟨ft, hft⟩ := (FilterType.exists_ofCode_iff _).2 htype
  simp only [unfilterRow, rowType_of_rowsDone hap hy hk, hft, true_and]
  exact (loop_invariant _ (RowsDone (Reconstructs m₀ r) r.dst r.bpl m₀ y) r.bpl k.mem hk fun x m hx hm =>
    unfilterByte_rowsDone hpp hap hy hx hft hm).nextRow

/-- As many rows as have legal types before them. -/
theorem unfilterRows_rowsDone {rows : Nat} (hrows : rows ≤ r.h)
    (htypes : ∀ y, y < rows → (memRead m₀ (r.src + y * (1 + r.bpl))).toNat ≤ 4) :
    ∃ m, sweep (unfilterRow r) rows ⟨m₀, 0⟩ = (⟨m, rows⟩, none) ∧ RowsDone (Reconstructs m₀ r) r.dst r.bpl m₀ rows 0 m := by
  have hsweep := sweep_completes (unfilterRow r)
    (fun y k => k.rows = y ∧ RowsDone (Reconstructs m₀ r) r.dst r.bpl m₀ y 0 k.mem) rows ⟨m₀, 0⟩ ⟨rfl, .start⟩
    fun y k hy hk => unfilterRow_rowsDone hpp hap (hy.trans_le hrows) (htypes y hy) hk.2
  rcases hs : sweep (unfilterRow r) rows ⟨m₀, 0⟩ with ⟨⟨m, count⟩, e⟩
  rw [hs] at hsweep
  obtain ⟨rfl, rfl, hdone⟩ := hsweep
  exact ⟨m, rfl, hdone⟩

/-- The first row whose type is not legal stops UNFILTER before it writes. -/
theorem unfilterRows_of_badType {y : Nat} (hy : y < r.h)
    (htypes : ∀ y', y' < y → (memRead m₀ (r.src + y' * (1 + r.bpl))).toNat ≤ 4)
    (hbad : 4 < (memRead m₀ (r.src + y * (1 + r.bpl))).toNat) :
    ∃ m, unfilterRows r m₀ = (⟨m, y⟩, some (.filterType (memRead m₀ (r.src + y * (1 + r.bpl))).toNat)) ∧
      RowsDone (Reconstructs m₀ r) r.dst r.bpl m₀ y 0 m := by
  obtain ⟨m, hsweep, hdone⟩ := unfilterRows_rowsDone hpp hap hy.le htypes
  refine ⟨m, sweep_of_raised _ hsweep ?_ hy, hdone⟩
  simp only [unfilterRow, rowType_of_rowsDone hap hy hdone, FilterType.ofCode_above_four hbad]

end

/-- Settles O45: every row has a legal type, so every row is reconstructed. -/
theorem unfilterReconstructs : Obligations.UnfilterReconstructs := by
  unfold Obligations.UnfilterReconstructs
  intro s f hf r hfits htypes
  obtain ⟨m, hrows, hdone⟩ := unfilterRows_rowsDone (formatFor_bytesPP_pos hf) hfits.apart_needed le_rfl htypes
  have ht := exec_unfilter_of_fits hf hfits
  rw [unfilterRun_eq, unfilterRows, hrows] at ht
  refine ⟨_, ht, s.afterRows_completedWith m r.h, fun a ha => ?_, s.afterRows_sameRest m _ _, s.afterRows_sameUnits m _ _,
    fun y x hy hx => ?_⟩
  · exact hdone.memRead_outside ha
  · exact hdone.byte hy hx

/-- Settles O46: the rows before the first bad type are reconstructed, and its row raises FILTER_TYPE. -/
theorem unfilterStopsAtBadType : Obligations.UnfilterStopsAtBadType := by
  unfold Obligations.UnfilterStopsAtBadType
  intro s f y0 hf r hfits hy htypes hbad
  obtain ⟨m, hrows, hdone⟩ := unfilterRows_of_badType (formatFor_bytesPP_pos hf) hfits.apart_needed hy htypes hbad
  have ht := exec_unfilter_of_fits hf hfits
  rw [unfilterRun_eq, hrows] at ht
  refine ⟨_, ht, s.afterRows_failedWith m y0 _, fun a ha => ?_, s.afterRows_sameRest m _ _, fun y x hy hx => ?_⟩
  · exact hdone.memRead_outside ha
  · exact hdone.byte hy hx

/-! ### FILTER (R170) -/

/-- The bytes of row `y` that FILTER writes: the type byte, then the filtered bytes of the raw image in `m₀` (R170). -/
def filteredByte (m₀ : Memory) (r : Raster) (code : Nat) (ft : FilterType) (y : Nat) : Nat → Byte
  | 0 => BitVec.ofNat 8 code
  | x + 1 => rawByte m₀ r.src r.bpl y x - ft.pred (neighbours (rawByte m₀ r.src r.bpl) r.fmt.bytesPP y x)

theorem filteredByte_one_add (m₀ : Memory) (r : Raster) (code : Nat) (ft : FilterType) (y x : Nat) :
    filteredByte m₀ r code ft y (1 + x) =
      rawByte m₀ r.src r.bpl y x - ft.pred (neighbours (rawByte m₀ r.src r.bpl) r.fmt.bytesPP y x) := by
  rw [Nat.add_comm, filteredByte]

/-- Byte `x` of row `y` of `stream` is the one FILTER writes. -/
def Filters (m₀ : Memory) (r : Raster) (code : Nat) (ft : FilterType) (stream : Nat → Nat → Byte) (y x : Nat) : Prop :=
  stream y x = filteredByte m₀ r code ft y x

theorem filters_causal (m₀ : Memory) (r : Raster) (code : Nat) (ft : FilterType) (n : Nat) : Causal n (Filters m₀ r code ft) :=
  fun _ _ y x hx hsame h => (hsame y x hx (.inr ⟨rfl, Nat.lt_succ_self x⟩)).trans h

section
variable {r : Raster} {m₀ : Memory} (hap : Apart r.src r.rawLen r.dst r.filteredLen) (code : Nat) (ft : FilterType)
include hap

/-- One byte of FILTER: the raw bytes are still those of `m₀`. -/
theorem filterByte_rowsDone {y x : Nat} {m : Memory} (hy : y < r.h) (hx : x < r.bpl)
    (h : RowsDone (Filters m₀ r code ft) r.dst (1 + r.bpl) m₀ y (1 + x) m) :
    RowsDone (Filters m₀ r code ft) r.dst (1 + r.bpl) m₀ y (1 + x + 1) (filterByte r ft y x m) := by
  have hsrc := h.written.agreeOn_apart hap (row_offset_lt hy (by omega)).le
  have hall : ∀ j, j < r.h * r.bpl → ∃ i, i < r.rawLen ∧ r.src + j = r.src + i := fun j hj => ⟨j, hj, rfl⟩
  rw [filterByte, rawByte_agree hsrc hall hy hx, neighbours_agree hsrc r.fmt.bytesPP hall hy hx, ← filteredByte_one_add m₀ r code,
    Nat.add_assoc (_ + _), Nat.add_assoc r.dst]
  exact h.write (filters_causal _ _ _ _ _) _ fun _ hself _ => hself

theorem filterRow_rowsDone {y : Nat} {m : Memory} (hy : y < r.h)
    (h : RowsDone (Filters m₀ r code ft) r.dst (1 + r.bpl) m₀ y 0 m) :
    RowsDone (Filters m₀ r code ft) r.dst (1 + r.bpl) m₀ (y + 1) 0 (filterRow r code ft y m) := by
  have htype : RowsDone (Filters m₀ r code ft) r.dst (1 + r.bpl) m₀ y 1
      (memWrite m (r.dst + y * (1 + r.bpl)) (BitVec.ofNat 8 code)) :=
    h.write (filters_causal _ _ _ _ _) _ fun _ hself _ => hself
  exact (loop_invariant _ (fun x => RowsDone (Filters m₀ r code ft) r.dst (1 + r.bpl) m₀ y (1 + x)) r.bpl _ htype
    fun x m hx hm => filterByte_rowsDone hap code ft hy hx hm).nextRow

theorem filterRows_rowsDone :
    RowsDone (Filters m₀ r code ft) r.dst (1 + r.bpl) m₀ r.h 0 (loop (filterRow r code ft) r.h m₀) :=
  loop_invariant _ (fun y => RowsDone (Filters m₀ r code ft) r.dst (1 + r.bpl) m₀ y 0) r.h m₀ .start fun _ _ hy hm =>
    filterRow_rowsDone hap code ft hy hm

end

/-- Settles O47: every row is its type byte and its filtered bytes. -/
theorem filterEmitsFilteredRows : Obligations.FilterEmitsFilteredRows := by
  unfold Obligations.FilterEmitsFilteredRows
  intro s f code ft hft hf r hfits
  have hdone := filterRows_rowsDone (m₀ := s.mem) hfits.apart_needed code ft
  have hcode : code ≤ 4 := (FilterType.exists_ofCode_iff code).1 ⟨ft, hft⟩
  refine ⟨_, exec_filter_of_fits hft hf hfits, s.afterRows_completedWith _ r.h, fun a ha => ?_, s.afterRows_sameRest _ _ none,
    s.afterRows_sameUnits _ _ none, fun y hy => ⟨?_, fun x hx => ?_⟩⟩
  · exact hdone.memRead_outside ha
  · have htype : rawByte _ r.dst (1 + r.bpl) y 0 = BitVec.ofNat 8 code := hdone.byte hy (by omega)
    exact (congrArg BitVec.toNat htype).trans (by rw [BitVec.toNat_ofNat, Nat.mod_eq_of_lt (by omega)])
  · have hbyte := hdone.byte hy (Nat.add_lt_add_left hx 1)
    rw [Filters, filteredByte_one_add, rawByte, ← Nat.add_assoc] at hbyte
    exact hbyte

/-! ### The inverse (R171) -/

/-- The raw image that a stream was made of is a reconstruction of it: `(r - p) + p = r` (R171). -/
theorem reconstructs_of_filtered {m₀ : Memory} {r : Raster} {raw : Nat → Nat → Byte} {code y x : Nat} {ft : FilterType}
    (hft : FilterType.ofCode code = some ft) (htype : (memRead m₀ (r.src + y * (1 + r.bpl))).toNat = code)
    (hbyte : memRead m₀ (r.src + y * (1 + r.bpl) + 1 + x) = raw y x - ft.pred (neighbours raw r.fmt.bytesPP y x)) :
    Reconstructs m₀ r raw y x :=
  ⟨ft, htype ▸ hft, by rw [hbyte, BitVec.sub_add_cancel]⟩

/-- Settles O49: UNFILTER's image and the raw image are both reconstructions of the stream that FILTER wrote. -/
theorem unfilterInvertsFilter : Obligations.UnfilterInvertsFilter := by
  unfold Obligations.UnfilterInvertsFilter
  intro s f code d n hcode hf r L hfits hfits'
  obtain ⟨ft, hft⟩ := (FilterType.exists_ofCode_iff code).2 hcode
  obtain ⟨t, ht, ⟨htstatus, -⟩, -, ⟨hthost, -⟩, -, hstream⟩ := filterEmitsFilteredRows s f code ft hft hf hfits
  have hf' : formatFor .unfilter L = some f := formatFor_unfilter_of hf rfl
  have htypes : ∀ y, y < r.h → (t.withLatch L).rowType (L.raster f) y = code := fun y hy => (hstream y hy).1
  obtain ⟨u, hu, ⟨hustatus, hucount, -⟩, -, -, -, himage⟩ := unfilterReconstructs (t.withLatch L) f hf'
    (by rw [show (t.withLatch L).params = s.params from hthost.params]; exact hfits') fun y hy => (htypes y hy).trans_le hcode
  refine ⟨t, u, ht, hu, ?_, ?_, fun y x hy hx => ?_⟩
  · rw [hustatus, show (t.withLatch L).status = t.status from rfl, htstatus]
  · exact hucount.trans (BitVec.ofNat_toNat 32 s.latch.height)
  · exact Reconstructs.unique (m₀ := t.mem) (r := L.raster f) (rows := r.h) (formatFor_bytesPP_pos hf)
      (raw := rawByte s.mem r.src r.bpl)
      (fun y x hy hx => reconstructs_of_filtered hft (htypes y hy) ((hstream y hy).2 x hx))
      (raw' := rawByte u.mem d.toNat r.bpl) (fun y x hy hx => himage y x hy hx) hy hx

end Sys2Proof.Machine
end

section
/-! SUPPORT. ADAM7_DEINTERLACE on an image of one pixel (R238): pass 1 alone has a row, which is unfiltered as UNFILTER's only row is and
scattered to the start of DST. -/

namespace Sys2Proof.Machine

/-! ### The reconstructed bytes of a pass row (R234) -/

theorem passCur_succ (m : Memory) (lb : Ram 8) (base bytesPP row : Nat) (t : FilterType) (n : Nat) :
    passCur m lb base bytesPP row t (n + 1) = passCur m lb base bytesPP row t n ++
      [memRead m (base + 1 + n) + t.pred
        { a := if bytesPP ≤ n then (passCur m lb base bytesPP row t n).getD (n - bytesPP) 0 else 0
          b := if 1 ≤ row then lineByte lb n else 0
          c := if bytesPP ≤ n ∧ 1 ≤ row then lineByte lb (n - bytesPP) else 0 }] := rfl

section
variable (m : Memory) (lb : Ram 8) (base bytesPP row : Nat) (t : FilterType)

theorem passCur_length (n : Nat) : (passCur m lb base bytesPP row t n).length = n := by
  induction n with
  | zero => rfl
  | succ n ih => rw [passCur_succ, List.length_append, ih, List.length_singleton]

/-- A byte once reconstructed stays. -/
theorem passCur_getD_eq {x k n : Nat} (hx : x < k) (hk : k ≤ n) :
    (passCur m lb base bytesPP row t n).getD x 0 = (passCur m lb base bytesPP row t k).getD x 0 := by
  induction n, hk using Nat.le_induction with
  | base => rfl
  | succ n hk ih =>
    rw [passCur_succ, List.getD_append _ _ _ _ (by rw [passCur_length]; omega), ih]

/-- Byte `x` of a pass row, from the bytes before it and the row above in the line buffer (R234). -/
theorem passCur_getD {x n : Nat} (hpp : 0 < bytesPP) (hx : x < n) :
    (passCur m lb base bytesPP row t n).getD x 0 = memRead m (base + 1 + x) + t.pred
      { a := if bytesPP ≤ x then (passCur m lb base bytesPP row t n).getD (x - bytesPP) 0 else 0
        b := if 1 ≤ row then lineByte lb x else 0
        c := if bytesPP ≤ x ∧ 1 ≤ row then lineByte lb (x - bytesPP) else 0 } := by
  have hleft : (if bytesPP ≤ x then (passCur m lb base bytesPP row t n).getD (x - bytesPP) 0 else 0) =
      if bytesPP ≤ x then (passCur m lb base bytesPP row t x).getD (x - bytesPP) 0 else 0 :=
    ite_congr rfl (fun h => passCur_getD_eq m lb base bytesPP row t (by omega) hx.le) fun _ => rfl
  rw [hleft, passCur_getD_eq m lb base bytesPP row t (Nat.lt_succ_self x) hx, passCur_succ,
    List.getD_append_right _ _ _ _ (by rw [passCur_length]), passCur_length, Nat.sub_self, List.getD_cons_zero]

end

/-- The first row of a pass is a reconstruction of its filtered bytes: there is no row above, whatever the line buffer holds (R234). -/
theorem passCur_reconstructs {m₀ m : Memory} {r : Raster} {lb : Ram 8} {ft : FilterType} {x : Nat} (hpp : 0 < r.fmt.bytesPP)
    (hft : FilterType.ofCode (memRead m₀ r.src).toNat = some ft) (hx : x < r.bpl)
    (hsrc : memRead m (r.src + 1 + x) = memRead m₀ (r.src + 1 + x)) :
    Reconstructs m₀ r (fun _ x => (passCur m lb r.src r.fmt.bytesPP 0 ft r.bpl).getD x 0) 0 x := by
  refine ⟨ft, by rwa [Nat.zero_mul], ?_⟩
  simp only [passCur_getD m lb r.src _ 0 ft hpp hx, hsrc, Nat.zero_mul, Nat.add_zero, neighbours]
  simp

/-! ### The passes of one pixel (R231, R232) -/

/-- Pass 1 alone holds the pixel. -/
theorem passRows_one_one {p : Nat} (hp : p < 7) : passRows 1 1 p = if p = 0 then 1 else 0 := by
  revert p
  decide

theorem adam7Len_onePixel {r : Raster} (hw : r.w = 1) (hh : r.h = 1) : adam7Len r = r.filteredLen := by
  have hrow : passBpl r.fmt 1 0 = r.bpl := by rw [Raster.bpl, hw]; rfl
  simp [adam7Len, hw, hh, passRows_one_one, hrow, Raster.filteredLen]

/-- Turns without effect after the first. -/
theorem sweep_succ_of_idle {σ : Type} (f : Nat → σ → σ × Option CmdError) (n : Nat) (s : σ)
    (h : ∀ k s, k < n → f (k + 1) s = (s, none)) : sweep f (n + 1) s = f 0 s := by
  induction n with
  | zero => rfl
  | succ n ih =>
    have hn := ih fun k s hk => h k s (Nat.lt_succ_of_lt hk)
    rcases hf : f 0 s with ⟨s', e⟩
    rw [hf] at hn
    cases e with
    | some e => exact sweep_succ_of_some f _ s s' e hn
    | none => rw [sweep_succ_of_none f _ s s' hn, h n s' (Nat.lt_succ_self n)]

theorem adam7Passes_onePixel {r : Raster} (m : Memory) (lb : Ram 8) (hw : r.w = 1) (hh : r.h = 1) :
    adam7Passes r m lb = adam7Row r 0 0 { mem := adam7Clear r m, lb := lb, off := 0, rows := 0, p := 0, r := 0, i := 0 } := by
  rw [adam7Passes, sweep_succ_of_idle, hw, hh]
  · rfl
  · intro p k hp
    rw [hw, hh, passRows_one_one (Nat.succ_lt_succ hp)]
    rfl

theorem exec_adam7_of_fits {s : State} {f : PixFmt} (hf : formatFor .adam7 s.latch = some f)
    (h : s.latch.fits s.params (adam7Len (s.latch.raster f)) (s.latch.raster f).rawLen)
    (hline : (s.latch.raster f).bpl ≤ s.params.lineBufBytes) :
    exec .adam7Deinterlace s = .next (adam7Run s (s.latch.raster f)) := by
  have hchecks := (firstError_eq_none _).1 h.firstError_rasterChecks
  rw [exec, execAdam7, hf]
  refine congrArg _ (State.checked_of_none _ _ _ ((firstError_eq_none _).2 fun c hc => ?_))
  obtain hc | hc := List.mem_append.1 hc
  · exact hchecks c hc
  · rw [List.mem_singleton.1 hc, lineBufCheck_eq_none]
    exact hline

/-! ### The scattered pixel (R235) -/

/-- The byte `b` of a lone pixel's row without its padding bits: those below the pixel's own, where a pixel is less than a byte. -/
def PixFmt.clearPadding (f : PixFmt) (b : Byte) : Byte :=
  if f.bitsPP < 8 then BitVec.ofNat 8 (b.toNat / 2 ^ (8 - f.bitsPP) * 2 ^ (8 - f.bitsPP)) else b

theorem PixFmt.clearPadding_toNat {f : PixFmt} (h : f.bitsPP < 8) (b : Byte) :
    (f.clearPadding b).toNat = b.toNat / 2 ^ (8 - f.bitsPP) * 2 ^ (8 - f.bitsPP) := by
  rw [PixFmt.clearPadding, if_pos h, BitVec.toNat_ofNat, Nat.mod_eq_of_lt ((Nat.div_mul_le_self _ _).trans_lt b.isLt)]

/-- A row of one pixel is the pixel's bytes, or one byte. -/
theorem PixFmt.bpl_one {f : PixFmt} (hf : f.depth ∈ f.ct.depths) : f.bpl 1 = if f.bitsPP < 8 then 1 else f.bytesPP := by
  obtain ⟨hpos, hsize⟩ := f.bitsPP_pos_and_packed_or_whole hf
  rw [PixFmt.bpl_eq]
  split <;> omega

/-- The bit-level scatter keeps the pixel's own bits of its byte. -/
theorem scatterBits_first (r : Raster) (cur : List Byte) (m : Memory) (hb : r.fmt.bitsPP < 8)
    (hzero : memRead m r.dst = 0#8) :
    scatterBits r cur 0 0 0 m = memWrite m r.dst (r.fmt.clearPadding (cur.getD 0 0)) := by
  have hfit : (cur.getD 0 0).toNat / 2 ^ (8 - r.fmt.bitsPP) < 2 ^ r.fmt.bitsPP := by
    refine Nat.div_lt_of_lt_mul ?_
    rw [← Nat.pow_add, Nat.sub_add_cancel hb.le]
    exact (cur.getD 0 0).isLt
  simp only [scatterBits, Nat.zero_mul, Nat.zero_div, Nat.zero_mod, Nat.sub_zero, Nat.add_zero, hzero, BitVec.zero_or,
    Nat.shiftRight_eq_div_pow, Nat.shiftLeft_eq, Nat.mod_eq_of_lt hfit, PixFmt.clearPadding, if_pos hb]

/-- MEM after the pixel went to its place in a cleared DST. -/
theorem memRead_scatterRow_onePixel {r : Raster} (cur : List Byte) (m : Memory) (hf : r.fmt.depth ∈ r.fmt.ct.depths)
    (hw : r.w = 1) (hh : r.h = 1) (a : Nat) :
    memRead (scatterRow r cur 0 0 (adam7Clear r m)) a =
      if r.dst ≤ a ∧ a < r.dst + r.bpl then r.fmt.clearPadding (cur.getD (a - r.dst) 0) else memRead m a := by
  have hbpl : r.bpl = if r.fmt.bitsPP < 8 then 1 else r.fmt.bytesPP := by rw [Raster.bpl, hw, PixFmt.bpl_one hf]
  have hlen : r.rawLen = r.bpl := by rw [Raster.rawLen, hh, Nat.one_mul]
  have hrow : scatterRow r cur 0 0 (adam7Clear r m) =
      if r.fmt.bitsPP < 8 then scatterBits r cur 0 0 0 (adam7Clear r m) else scatterBytes r cur 0 0 0 (adam7Clear r m) := by
    rw [scatterRow, hw]
    rfl
  rw [hrow]
  by_cases hb : r.fmt.bitsPP < 8
  · rw [if_pos hb] at hbpl ⊢
    have hzero : memRead (adam7Clear r m) r.dst = 0 := by
      rw [adam7Clear, memRead_memFill, if_pos (by omega)]
    rw [scatterBits_first r cur _ hb hzero, memRead_memWrite, adam7Clear, memRead_memFill, hlen, hbpl]
    by_cases ha : a = r.dst
    · simp [ha]
    · have hout : ¬ (r.dst ≤ a ∧ a < r.dst + 1) := by omega
      rw [if_neg ha, if_neg hout, if_neg hout]
  · rw [if_neg hb] at hbpl ⊢
    simp only [scatterBytes, Nat.zero_mul, Nat.zero_add, Nat.add_zero, memRead_memFill, adam7Clear, hlen, hbpl,
      PixFmt.clearPadding, if_neg hb]
    split <;> rfl

/-- Padding bits are no part of the pixel's samples (R192). -/
theorem rowNumber_clearPadding {f : PixFmt} {row row' : Nat → Byte} (hf : f.depth ∈ f.ct.depths) (hb : f.bitsPP < 8)
    (h : row' 0 = f.clearPadding (row 0)) (j : Nat) : rowNumber row' f 0 j = rowNumber row f 0 j := by
  have hbits : f.bitsPP = f.ct.channels * f.depth := rfl
  have hdepth : f.depth < 8 ∧ f.bitsPP = f.depth := by
    obtain ⟨hlow, hone⟩ | h8 | h16 := Ctype.depth_cases hf
    · exact ⟨hlow, by rw [hbits, hone, Nat.one_mul]⟩
    all_goals
      have hpos : 0 < f.ct.channels := by cases f.ct <;> decide
      have := Nat.le_mul_of_pos_left f.depth hpos
      omega
  obtain ⟨hlow, heq⟩ := hdepth
  have hpow : 0 < 2 ^ (8 - f.depth) := Nat.two_pow_pos _
  simp only [rowNumber, if_neg (show f.depth ≠ 16 by omega), if_neg (show f.depth ≠ 8 by omega), Nat.zero_mul, Nat.zero_div,
    Nat.zero_mod, Nat.sub_zero, h, PixFmt.clearPadding_toNat hb, heq, Nat.mul_div_cancel _ hpow]

/-! ### The two commands (R238) -/

/-- Clearing the output leaves SRC as it is, where the two are apart (R267). -/
theorem adam7Clear_agreeOn_src {r : Raster} {needed : Nat} (m : Memory) (hap : Apart r.src needed r.dst r.rawLen) :
    m.AgreeOn (fun a => ∃ i, i < needed ∧ a = r.src + i) (adam7Clear r m) := by
  have hwritten : Memory.Written r.dst r.rawLen m (adam7Clear r m) := Memory.Written.refl.fill _ fun j hj => by omega
  exact hwritten.agreeOn_apart hap le_rfl

/-- The passes of one pixel: a reconstruction of the filtered row, without padding bits, is all that they write. -/
theorem adam7Passes_onePixel_result {r : Raster} (m : Memory) (lb : Ram 8) (hf : r.fmt.depth ∈ r.fmt.ct.depths)
    (hpp : 0 < r.fmt.bytesPP) (hw : r.w = 1) (hh : r.h = 1) (hap : Apart r.src r.filteredLen r.dst r.rawLen)
    (htype : (memRead m r.src).toNat ≤ 4) :
    ∃ k raw, adam7Passes r m lb = (k, none) ∧ k.rows = 1 ∧ (∀ x, x < r.bpl → Reconstructs m r raw 0 x) ∧
      ∀ a, memRead k.mem a =
        if r.dst ≤ a ∧ a < r.dst + r.bpl then r.fmt.clearPadding (raw 0 (a - r.dst)) else memRead m a := by
  obtain ⟨ft, hft⟩ := (FilterType.exists_ofCode_iff _).2 htype
  have hlen : r.filteredLen = 1 + r.bpl := by rw [Raster.filteredLen, hh, Nat.one_mul]
  have hsrc := adam7Clear_agreeOn_src m hap
  have hread : memRead (adam7Clear r m) (r.src + 0) = memRead m r.src := hsrc _ ⟨0, by omega, rfl⟩
  have hbpl : passBpl r.fmt r.w 0 = r.bpl := by rw [Raster.bpl, hw]; rfl
  rw [adam7Passes_onePixel m lb hw hh]
  simp only [adam7Row, hread, hft, hbpl]
  refine ⟨_, _, rfl, rfl, fun x hx => passCur_reconstructs hpp hft hx ?_, memRead_scatterRow_onePixel _ m hf hw hh⟩
  rw [Nat.add_assoc]
  exact hsrc _ ⟨1 + x, by omega, rfl⟩

/-- ADAM7_DEINTERLACE of one pixel, as a command. -/
theorem exec_adam7_onePixel {s : State} {f : PixFmt} {r : Raster} (hf : formatFor .adam7 s.latch = some f)
    (hr : s.latch.raster f = r) (hw : r.w = 1) (hh : r.h = 1) (hfits : s.latch.fits s.params r.filteredLen r.rawLen)
    (hline : r.bpl ≤ s.params.lineBufBytes) (htype : s.rowType r 0 ≤ 4) :
    ∃ t raw, exec .adam7Deinterlace s = .next t ∧ State.completedWith s t 1 ∧
      (∀ x, x < r.bpl → Reconstructs s.mem r raw 0 x) ∧
      ∀ a, t.readByte a =
        if r.dst ≤ a ∧ a < r.dst + r.bpl then f.clearPadding (raw 0 (a - r.dst)) else s.readByte a := by
  subst hr
  rw [State.rowType, Nat.zero_mul, Nat.add_zero] at htype
  obtain ⟨k, raw, hk, hrows, hraw, hmem⟩ := adam7Passes_onePixel_result s.mem s.lineBuf (formatFor_depth_mem hf)
    (formatFor_bytesPP_pos hf) hw hh hfits.apart_needed htype
  have ht := exec_adam7_of_fits hf (by rw [adam7Len_onePixel hw hh]; exact hfits) hline
  rw [adam7Run, hk] at ht
  exact ⟨_, raw, ht, ⟨rfl, congrArg (BitVec.ofNat 32) hrows, rfl⟩, hraw, hmem⟩

/-- The two commands on one pixel complete alike, and every byte is the same but for the padding bits of the pixel's row. -/
theorem exec_adam7_unfilter_onePixel {s : State} {f : PixFmt} {r : Raster} (hf : formatFor .adam7 s.latch = some f)
    (hr : s.latch.raster f = r) (hw : r.w = 1) (hh : r.h = 1) (hfits : s.latch.fits s.params r.filteredLen r.rawLen)
    (hline : r.bpl ≤ s.params.lineBufBytes) (htype : s.rowType r 0 ≤ 4) :
    ∃ t u, exec .adam7Deinterlace s = .next t ∧ exec .unfilter s = .next u ∧ t.status = u.status ∧ t.outCount = u.outCount ∧
      ∀ a, t.readByte a = if r.dst ≤ a ∧ a < r.dst + r.bpl then f.clearPadding (u.readByte a) else u.readByte a := by
  obtain ⟨t, raw, ht, ⟨htstatus, htcount, -⟩, hraw, htmem⟩ := exec_adam7_onePixel hf hr hw hh hfits hline htype
  subst hr
  obtain ⟨u, hu, ⟨hustatus, hucount, -⟩, hout, -, -, himage⟩ :=
    unfilterReconstructs s f (formatFor_unfilter_of hf rfl) hfits fun y hy => by
      obtain rfl : y = 0 := by omega
      exact htype
  refine ⟨t, u, ht, hu, htstatus.trans hustatus.symm, by rw [htcount, hucount, hh], fun a => ?_⟩
  rw [htmem]
  split
  · next ha =>
    obtain ⟨x, rfl⟩ := Nat.exists_eq_add_of_le ha.1
    have hx : x < (s.latch.raster f).bpl := by omega
    have hsame : rawByte u.mem (s.latch.raster f).dst (s.latch.raster f).bpl 0 x = raw 0 x := by
      refine Reconstructs.unique (m₀ := s.mem) (rows := 1) (formatFor_bytesPP_pos hf) (fun y x hy hx => ?_)
        (fun y x hy hx => himage y x (hh ▸ hy) hx) Nat.one_pos hx
      obtain rfl := Nat.lt_one_iff.1 hy
      exact hraw x hx
    rw [rawByte, Nat.zero_mul, Nat.add_zero] at hsame
    rw [Nat.add_sub_cancel_left, ← hsame, State.readByte]
  · next ha =>
    refine (hout a ?_).symm
    rw [Raster.rawLen, hh, Nat.one_mul]
    omega

/-- Settles O60: both commands reconstruct the one row of the same stream, and ADAM7_DEINTERLACE clears its padding bits. -/
theorem adam7OfOnePixelIsUnfilter : Obligations.Adam7OfOnePixelIsUnfilter := by
  unfold Obligations.Adam7OfOnePixelIsUnfilter
  intro s f hf r hw hh hfits hline htype
  have hdepth := formatFor_depth_mem hf
  obtain ⟨t, u, ht, hu, hstatus, hcount, hmem⟩ := exec_adam7_unfilter_onePixel (r := r) hf rfl hw hh hfits hline htype
  refine ⟨t, u, ht, hu, hstatus, hcount, ?_⟩
  obtain hb | hb := Nat.lt_or_ge f.bitsPP 8
  · have hbpl : r.bpl = 1 := by rw [Raster.bpl, hw]; exact (PixFmt.bpl_one hdepth).trans (if_pos hb)
    have hfirst : t.readByte r.dst = f.clearPadding (u.readByte r.dst) := (hmem r.dst).trans (if_pos (by omega))
    have hout : State.sameOutside u t r.dst 1 := fun a ha => (hmem a).trans (if_neg (by omega))
    refine ⟨fun j _ => rowNumber_clearPadding hdepth hb ?_ j, fun h => absurd hb (not_lt.2 h), fun _ => ⟨hout, ?_⟩⟩
    · rw [Nat.zero_mul]
      exact hfirst
    · rw [hfirst, PixFmt.clearPadding_toNat hb]
  · have hsame : State.sameMem u t := fun a => by
      rw [hmem a, PixFmt.clearPadding, if_neg (not_lt.2 hb), ite_self]
    refine ⟨fun j _ => ?_, fun _ => hsame, fun h => absurd h (not_lt.2 hb)⟩
    simp only [State.sampleAt, hsame _]

end Sys2Proof.Machine
end

section
/-! SUPPORT. EXPAND pixel by pixel (R195): the pixels before the one reached are written, row by row, and each is what R196 to R200
make of MEM before the command. -/

namespace Sys2Proof.Machine

/-! ### Pixels in MEM (R193) -/

/-- The four bytes at `o` as a pixel (R193). -/
def readPixel (m : Memory) (o : Nat) : Rgba := ⟨memRead m o, memRead m (o + 1), memRead m (o + 2), memRead m (o + 3)⟩

theorem memRead_writePixel_outside (m : Memory) {o a : Nat} (p : Rgba) (ha : a < o ∨ o + 4 ≤ a) :
    memRead (writePixel m o p) a = memRead m a := by
  simp (disch := omega) only [writePixel, memRead_memWrite_ne]

theorem readPixel_writePixel_self (m : Memory) (o : Nat) (p : Rgba) : readPixel (writePixel m o p) o = p := by
  simp (disch := omega) only [readPixel, writePixel, memRead_memWrite_self, memRead_memWrite_ne]

theorem readPixel_writePixel_apart (m : Memory) {o o' : Nat} (p : Rgba) (h : o' + 4 ≤ o) :
    readPixel (writePixel m o p) o' = readPixel m o' := by
  simp (disch := omega) only [readPixel, memRead_writePixel_outside]

/-- A pixel byte by byte, its colours given by number. -/
theorem memRead_of_readPixel {m : Memory} {o : Nat} {alpha : Byte} (c : Nat → Byte)
    (h : readPixel m o = ⟨c 0, c 1, c 2, alpha⟩) :
    (∀ j, j < 3 → memRead m (o + j) = c j) ∧ memRead m (o + 3) = alpha := by
  rw [readPixel, Rgba.mk.injEq] at h
  obtain ⟨hred, hgreen, hblue, halpha⟩ := h
  refine ⟨fun j hj => ?_, halpha⟩
  match j with
  | 0 => exact hred
  | 1 => exact hgreen
  | 2 => exact hblue

/-! ### The loops of EXPAND -/

theorem exists_sweep_completes {σ : Type} (f : Nat → σ → σ × Option CmdError) (P : Nat → σ → Prop) (n : Nat) (s : σ)
    (h0 : P 0 s) (hf : ∀ k x, k < n → P k x → (f k x).2 = none ∧ P (k + 1) (f k x).1) :
    ∃ s', sweep f n s = (s', none) ∧ P n s' := by
  obtain ⟨hnone, hP⟩ := sweep_completes f P n s h0 hf
  exact ⟨_, Prod.ext rfl hnone, hP⟩

/-- Pixels of the same image come in the order of their offsets. -/
theorem scanBefore_of_offset_lt {w y' x' y x : Nat} (hx : x < w) (h : y' * w + x' < y * w + x) : ScanBefore y' x' y x := by
  obtain hlt | rfl | hgt := Nat.lt_trichotomy y' y
  · exact .inl hlt
  · exact .inr ⟨rfl, Nat.lt_of_add_lt_add_left h⟩
  · have := row_offset_lt hgt hx
    omega

/-- The `h * w` pixels of an image, four bytes each (R193). -/
theorem pixel_bytes_le {r : Raster} {n : Nat} (h : n ≤ r.h * r.w) : 4 * n ≤ 4 * r.w * r.h := by
  rw [Nat.mul_assoc, Nat.mul_comm r.w]
  exact Nat.mul_le_mul_left 4 h

/-- Writes to DST do not change what EXPAND makes of the image. -/
def PixelsStable (L : Args) (r : Raster) (m₀ : Memory) : Prop :=
  ∀ m n y x, n ≤ 4 * r.w * r.h → Memory.Written r.dst n m₀ m → y < r.h → x < r.w → pixelAt m L r y x = pixelAt m₀ L r y x

/-- `k` is where EXPAND stands on reaching pixel `x` of row `y`: the pixels of the image in `m₀` before it are counted
and written. -/
structure PixelsDone (L : Args) (r : Raster) (m₀ : Memory) (y x : Nat) (k : PixelWork) : Prop where
  count   : k.pixels = y * r.w + x
  written : Memory.Written r.dst (4 * (y * r.w + x)) m₀ k.mem
  pixels  : ∀ y' x', x' < r.w → ScanBefore y' x' y x →
    pixelAt m₀ L r y' x' = .ok (readPixel k.mem (r.dst + 4 * (y' * r.w + x')))

section
variable {L : Args} {r : Raster} {m₀ : Memory} {y x : Nat} {k : PixelWork}

theorem PixelsDone.start : PixelsDone L r m₀ 0 0 ⟨m₀, 0⟩ where
  count := by rw [Nat.zero_mul]
  written := .refl
  pixels := fun _ _ _ h => by unfold ScanBefore at h; omega

theorem PixelsDone.nextRow (h : PixelsDone L r m₀ y r.w k) : PixelsDone L r m₀ (y + 1) 0 k := by
  have hoff : (y + 1) * r.w + 0 = y * r.w + r.w := Nat.succ_mul y r.w
  exact {
    count := hoff ▸ h.count
    written := hoff ▸ h.written
    pixels := fun y' x' hx' hbefore => h.pixels y' x' hx' (scanBefore_nextRow hx' hbefore) }

theorem PixelsDone.write {p : Rgba} (h : PixelsDone L r m₀ y x k) (hp : pixelAt m₀ L r y x = .ok p) :
    PixelsDone L r m₀ y (x + 1) ⟨writePixel k.mem (r.dst + 4 * (y * r.w + x)) p, k.pixels + 1⟩ where
  count := by rw [h.count, Nat.add_assoc]
  written := by
    have hw := h.written.mono (n' := 4 * (y * r.w + (x + 1))) (by omega)
    simp only [writePixel, Nat.add_assoc]
    exact (((hw.write _ _ (by omega)).write _ _ (by omega)).write _ _ (by omega)).write _ _ (by omega)
  pixels := fun y' x' hx' hbefore => by
    obtain hold | ⟨rfl, rfl⟩ := (scanBefore_succ_iff _ _ _ _).1 hbefore
    · have := scanBefore_offset_lt hx' hold
      rw [readPixel_writePixel_apart _ _ (by omega)]
      exact h.pixels y' x' hx' hold
    · rw [readPixel_writePixel_self]
      exact hp

section
variable (hstable : PixelsStable L r m₀)
include hstable

theorem PixelsDone.pixelAt_eq (h : PixelsDone L r m₀ y x k) (hy : y < r.h) (hx : x < r.w) :
    pixelAt k.mem L r y x = pixelAt m₀ L r y x :=
  hstable _ _ y x (pixel_bytes_le (row_offset_lt hy hx).le) h.written hy hx

theorem expandPixel_done {p : Rgba} (hy : y < r.h) (hx : x < r.w) (hp : pixelAt m₀ L r y x = .ok p)
    (hk : PixelsDone L r m₀ y x k) :
    (expandPixel L r y x k).2 = none ∧ PixelsDone L r m₀ y (x + 1) (expandPixel L r y x k).1 := by
  simp only [expandPixel, hk.pixelAt_eq hstable hy hx, hp, true_and]
  exact hk.write hp

theorem expandRow_done {n : Nat} (hy : y < r.h) (hn : n ≤ r.w) (hok : ∀ x, x < n → ∃ p, pixelAt m₀ L r y x = .ok p)
    (hk : PixelsDone L r m₀ y 0 k) : ∃ k', sweep (expandPixel L r y) n k = (k', none) ∧ PixelsDone L r m₀ y n k' :=
  exists_sweep_completes _ (PixelsDone L r m₀ y) n k hk fun x _ hx hk =>
    (hok x hx).elim fun _ hp => expandPixel_done hstable hy (hx.trans_le hn) hp hk

theorem expandRows_done {n : Nat} (hn : n ≤ r.h) (hok : ∀ y x, y < n → x < r.w → ∃ p, pixelAt m₀ L r y x = .ok p) :
    ∃ k, sweep (fun y => sweep (expandPixel L r y) r.w) n ⟨m₀, 0⟩ = (k, none) ∧ PixelsDone L r m₀ n 0 k := by
  refine exists_sweep_completes _ (PixelsDone L r m₀ · 0) n _ .start fun y k hy hk => ?_
  obtain ⟨k', hrow, hk'⟩ := expandRow_done hstable (hy.trans_le hn) le_rfl (fun x hx => hok y x hy hx) hk
  rw [hrow]
  exact ⟨rfl, hk'.nextRow⟩

/-- The first pixel that raises ends EXPAND before it is written. -/
theorem expandPixels_stopped {e : CmdError} (hy : y < r.h) (hx : x < r.w)
    (hok : ∀ y' x', x' < r.w → ScanBefore y' x' y x → ∃ p, pixelAt m₀ L r y' x' = .ok p)
    (hbad : pixelAt m₀ L r y x = .error e) : ∃ k, expandPixels L r m₀ = (k, some e) ∧ PixelsDone L r m₀ y x k := by
  obtain ⟨k, hrows, hk⟩ := expandRows_done hstable hy.le fun y' x' hy' hx' => hok y' x' hx' (.inl hy')
  obtain ⟨k', hrow, hk'⟩ := expandRow_done hstable hy hx.le (fun x' hx' => hok y x' (hx'.trans hx) (.inr ⟨rfl, hx'⟩)) hk
  have hpixel : expandPixel L r y x k' = (k', some e) := by
    simp only [expandPixel, hk'.pixelAt_eq hstable hy hx, hbad]
  exact ⟨k', sweep_of_raised _ hrows (sweep_of_raised _ hrow hpixel hx) hy, hk'⟩

end

end

/-! ### The command -/

/-- Two regions that are apart: what is read of one lies outside what is written of the other. -/
theorem Apart.outside {b₁ n₁ b₂ n₂ n j : Nat} (h : Apart b₁ n₁ b₂ n₂) (hj : j < n₁) (hn : n ≤ n₂) :
    b₁ + j < b₂ ∨ b₂ + n ≤ b₁ + j := by
  unfold Apart at h
  omega

section
variable {L : Args} {p : Params} {f : PixFmt} {r : Raster} (hr : L.raster f = r)
  (hfits : L.fits p r.rawLen (4 * r.w * r.h)) (htables : f.ct = .palette → L.tablesFit p)
include hr hfits htables

theorem Args.fits.firstError_expandChecks : firstError (expandChecks p L r) = none := by
  subst hr
  obtain ⟨hsrc, hdst, hapart, hs, hd⟩ := hfits
  rw [firstError_eq_none]
  unfold expandChecks
  split
  · next hct =>
    obtain ⟨hplte, htrns, hpapart, htapart⟩ := htables hct
    simpa using ⟨hsrc, hdst, hplte, htrns, hapart, hpapart, htapart, hs, hd⟩
  · simpa [srcDstChecks] using ⟨hsrc, hdst, hapart, hs, hd⟩

theorem Args.fits.pixelsStable (hf : formatFor .expand L = some f) (m₀ : Memory) : PixelsStable L r m₀ := by
  subst hr
  intro m n y x hn hwritten hy hx
  have hsrc := hfits.apart_needed
  obtain ⟨-, -, -, -, hdst⟩ := hfits
  refine pixelAt_agree (R := fun a => a < L.dstAddr.toNat ∨ L.dstAddr.toNat + n ≤ a) L _ (formatFor_depth_mem hf)
    (fun j hj => hsrc.outside hj hn) (fun hct => ?_) hy hx fun a ha => hwritten.memRead_outside ha
  obtain ⟨-, -, hplte, htrns⟩ := htables hct
  exact ⟨fun j hj => hplte.outside hj (hn.trans hdst), fun j hj => htrns.outside hj (hn.trans hdst)⟩

end

theorem exec_expand_frame {s t : State} (h : exec .expand s = .next t) : State.sameRest s t ∧ State.SameUnits s t := by
  obtain ⟨hhost, hcrc, hlzw, hline, hpack, -⟩ := commandFrame .expand s t h
  obtain ⟨htable, hregs⟩ := hlzw (by simp)
  exact ⟨⟨hhost, hcrc (by simp) (by simp)⟩, htable, hregs, hline (by simp), hpack (by simp)⟩

section
variable {s : State} {f : PixFmt} {r : Raster} (hf : formatFor .expand s.latch = some f) (hr : s.latch.raster f = r)
  (hfits : s.latch.fits s.params r.rawLen (4 * r.w * r.h)) (htables : f.ct = .palette → s.latch.tablesFit s.params)
include hf hr hfits htables

theorem exec_expand_of_fits : exec .expand s = .next (expandRun s r) := by
  have hchecks := hfits.firstError_expandChecks hr htables
  subst hr
  rw [exec, execExpand, hf]
  exact congrArg _ (State.checked_of_none _ _ _ hchecks)

/-- EXPAND of an image none of whose pixels raises writes every pixel (R195). -/
theorem exec_expand_completes (hok : ∀ y x, y < r.h → x < r.w → ∃ p, pixelAt s.mem s.latch r y x = .ok p) :
    ∃ t, exec .expand s = .next t ∧ State.completedWith s t (r.w * r.h) ∧
      State.sameOutside s t r.dst (4 * r.w * r.h) ∧ State.sameRest s t ∧ State.SameUnits s t ∧
      ∀ y x, y < r.h → x < r.w →
        pixelAt s.mem s.latch r y x = .ok (readPixel t.mem (r.dst + 4 * (y * r.w + x))) := by
  obtain ⟨k, hrun, hcount, hwritten, hpixels⟩ := expandRows_done (hfits.pixelsStable hr htables hf s.mem) le_rfl hok
  have ht := exec_expand_of_fits hf hr hfits htables
  obtain ⟨hrest, hunits⟩ := exec_expand_frame ht
  rw [expandRun, expandPixels, hrun] at ht hrest hunits
  have hall : r.h * r.w + 0 = r.w * r.h := Nat.mul_comm _ _
  rw [hall] at hcount hwritten
  refine ⟨_, ht, ⟨rfl, congrArg (BitVec.ofNat 32) hcount, rfl⟩, fun a ha => ?_, hrest, hunits,
    fun y x hy hx => hpixels y x hx (.inl hy)⟩
  rw [Nat.mul_assoc] at ha
  exact hwritten.memRead_outside ha

/-- EXPAND of an image with a pixel that raises writes the pixels before the first such pixel (R195). -/
theorem exec_expand_stops {y x : Nat} {e : CmdError} (hy : y < r.h) (hx : x < r.w)
    (hok : ∀ y' x', x' < r.w → ScanBefore y' x' y x → ∃ p, pixelAt s.mem s.latch r y' x' = .ok p)
    (hbad : pixelAt s.mem s.latch r y x = .error e) :
    ∃ t, exec .expand s = .next t ∧ State.failedWith s t e.code e.info (y * r.w + x) ∧
      State.sameOutside s t r.dst (4 * (y * r.w + x)) ∧ State.sameRest s t ∧
      ∀ y' x', x' < r.w → ScanBefore y' x' y x →
        pixelAt s.mem s.latch r y' x' = .ok (readPixel t.mem (r.dst + 4 * (y' * r.w + x'))) := by
  obtain ⟨k, hrun, hcount, hwritten, hpixels⟩ :=
    expandPixels_stopped (hfits.pixelsStable hr htables hf s.mem) hy hx hok hbad
  have ht := exec_expand_of_fits hf hr hfits htables
  obtain ⟨hrest, -⟩ := exec_expand_frame ht
  rw [expandRun, hrun] at ht hrest
  exact ⟨_, ht, ⟨rfl, rfl, congrArg (BitVec.ofNat 32) hcount⟩, fun a ha => hwritten.memRead_outside ha, hrest, hpixels⟩

end

end Sys2Proof.Machine
end

section
/-! SUPPORT. EXPAND by colour type (R194 to R200): the bytes of a pixel as numbers, from the samples of the image. -/

namespace Sys2Proof.Machine

/-! ### Samples of a legal depth (R192) -/

/-- The depths of R191. -/
theorem Ctype.depth_legal {ct : Ctype} {d : Nat} (h : d ∈ ct.depths) : d = 1 ∨ d = 2 ∨ d = 4 ∨ d = 8 ∨ d = 16 := by
  cases ct <;> simp only [Ctype.depths, List.mem_cons, List.not_mem_nil, or_false] at h <;> omega

/-- Colour types of more than a sample a pixel have whole bytes a sample (R191). -/
theorem Ctype.depth_whole {ct : Ctype} {d : Nat} (h : d ∈ ct.depths) (hct : ct ≠ .gray) (hct' : ct ≠ .palette) :
    d = 8 ∨ d = 16 := by
  cases ct with
  | gray => exact absurd rfl hct
  | palette => exact absurd rfl hct'
  | rgb | grayAlpha | rgba => simpa [Ctype.depths] using h

theorem rowNumber_lt (row : Nat → Byte) {f : PixFmt} (x j : Nat) : rowNumber row f x j < 2 ^ f.depth := by
  unfold rowNumber
  split
  · next h =>
    have hhigh := (row (2 * (x * f.ct.channels + j))).isLt
    have hlow := (row (2 * (x * f.ct.channels + j) + 1)).isLt
    rw [h]
    omega
  · split
    · next h => rw [h]; exact (row _).isLt
    · exact Nat.mod_lt _ (Nat.two_pow_pos _)

theorem State.sampleAt_lt (s : State) (base : Nat) (r : Raster) (y x j : Nat) : s.sampleAt base r y x j < 2 ^ r.fmt.depth :=
  rowNumber_lt _ x j

/-- At depth 16 a sample is its two bytes, the high one first. -/
theorem State.sampleAt_sixteen (s : State) (base : Nat) {r : Raster} (y x j : Nat) (h : r.fmt.depth = 16) :
    s.sampleAt base r y x j = 256 * (s.readByte (base + y * r.bpl + 2 * (x * r.fmt.ct.channels + j))).toNat +
      (s.readByte (base + y * r.bpl + 2 * (x * r.fmt.ct.channels + j) + 1)).toNat :=
  if_pos h

theorem sample_eq_sampleAt_of_legal (s : State) {r : Raster} (h : r.fmt.depth ∈ r.fmt.ct.depths) (y x : Nat) :
    sample s.mem r.src r.w r.fmt y x = s.sampleAt r.src r y x := by
  funext j
  refine sample_eq_sampleAt s r.src r y x j ?_
  have := Ctype.depth_legal h
  omega

/-! ### Reduction to 8 bits (R194) -/

theorem to8_toNat {d v : Nat} (hd : d = 8 ∨ d = 16) (hv : v < 2 ^ d) : (to8 d v).toNat = v / 2 ^ (d - 8) := by
  obtain rfl | rfl := hd
  · rw [to8, if_neg (by decide), BitVec.toNat_ofNat, Nat.mod_eq_of_lt hv, Nat.sub_self, Nat.pow_zero, Nat.div_one]
  · rw [to8, if_pos rfl, BitVec.toNat_ofNat, Nat.shiftRight_eq_div_pow, Nat.mod_eq_of_lt (by omega)]

/-- The high byte is the one at the lower address. -/
theorem State.to8_sampleAt (s : State) (base : Nat) {r : Raster} (y x j : Nat) (h : r.fmt.depth = 16) :
    to8 r.fmt.depth (s.sampleAt base r y x j) = s.readByte (base + y * r.bpl + 2 * (x * r.fmt.ct.channels + j)) := by
  have hlow := (s.readByte (base + y * r.bpl + 2 * (x * r.fmt.ct.channels + j) + 1)).isLt
  apply BitVec.eq_of_toNat_eq
  rw [to8_toNat (.inr h) (s.sampleAt_lt base r y x j), s.sampleAt_sixteen base y x j h, h]
  omega

/-- `scale(d) = 255 / (2 ^ d - 1)` (R194), and at whole bytes gray is the reduced sample. -/
theorem gray8_toNat {d v : Nat} (hd : d = 1 ∨ d = 2 ∨ d = 4 ∨ d = 8 ∨ d = 16) (hv : v < 2 ^ d) :
    (gray8 d v).toNat = if d < 8 then v * (255 / (2 ^ d - 1)) else v / 2 ^ (d - 8) := by
  unfold gray8
  split
  · next hlow =>
    rw [BitVec.toNat_ofNat]
    obtain rfl | rfl | rfl : d = 1 ∨ d = 2 ∨ d = 4 := by omega
    all_goals
      simp only [grayScale]
      omega
  · exact to8_toNat (by omega) hv

/-! ### Transparency (R197, R200) -/

theorem keyAlpha_toNat {b : Bool} {P : Prop} [Decidable P] (h : b = true ↔ P) : (keyAlpha b).toNat = if P then 0 else 255 := by
  rw [← if_congr h rfl rfl]
  cases b <;> rfl

theorem keyAlpha_eq_zero_iff (b : Bool) : keyAlpha b = 0 ↔ b = true := by cases b <;> decide

/-- Scaling both sides by the same constant changes no comparison (R200). -/
theorem grayKey_iff (L : Args) {d v : Nat} (hd : d = 1 ∨ d = 2 ∨ d = 4 ∨ d = 8 ∨ d = 16) (hv : v < 2 ^ d) :
    grayKey L d v = true ↔ v = L.tkey0.toNat := by
  unfold grayKey
  split
  · next hlow =>
    rw [decide_eq_true_eq, gray8_toNat hd hv, if_pos hlow]
    obtain rfl | rfl | rfl : d = 1 ∨ d = 2 ∨ d = 4 := by omega
    all_goals
      simp only [grayScale]
      omega
  · rw [decide_eq_true_eq]

/-! ### RGB and RGBA (R196, R197) -/

/-- Alpha of an RGBA or RGB pixel with samples `v`: the fourth sample, or the key's. -/
def trueColourAlpha (L : Args) (f : PixFmt) (v : Nat → Nat) : Byte :=
  if f.ct = .rgba then to8 f.depth (v 3)
  else keyAlpha (f.trnsEn && decide (v 0 = L.tkey0.toNat ∧ v 1 = L.tkey1.toNat ∧ v 2 = L.tkey2.toNat))

theorem pixelAt_trueColour (s : State) {L : Args} {r : Raster} (hd : r.fmt.depth ∈ r.fmt.ct.depths)
    (hct : r.fmt.ct = .rgba ∨ r.fmt.ct = .rgb) (y x : Nat) :
    pixelAt s.mem L r y x =
      .ok ⟨to8 r.fmt.depth (s.sampleAt r.src r y x 0), to8 r.fmt.depth (s.sampleAt r.src r y x 1),
        to8 r.fmt.depth (s.sampleAt r.src r y x 2), trueColourAlpha L r.fmt (s.sampleAt r.src r y x)⟩ := by
  rw [pixelAt, sample_eq_sampleAt_of_legal s hd]
  obtain h | h := hct <;> simp [h, pixelRgba, pixelRgb, trueColourAlpha]

/-- A written RGBA or RGB pixel in numbers. -/
theorem trueColour_bytes (s : State) {L : Args} {r : Raster} (hd : r.fmt.depth ∈ r.fmt.ct.depths)
    (hct : r.fmt.ct = .rgba ∨ r.fmt.ct = .rgb) {m : Memory} {o y x : Nat} (h : pixelAt s.mem L r y x = .ok (readPixel m o)) :
    (∀ j, j < 3 → (memRead m (o + j)).toNat = s.sampleAt r.src r y x j / 2 ^ (r.fmt.depth - 8)) ∧
    (memRead m (o + 3)).toNat =
      (if r.fmt.ct = .rgba then s.sampleAt r.src r y x 3 / 2 ^ (r.fmt.depth - 8)
       else if r.fmt.trnsEn = true ∧ s.sampleAt r.src r y x 0 = L.tkey0.toNat ∧
         s.sampleAt r.src r y x 1 = L.tkey1.toNat ∧ s.sampleAt r.src r y x 2 = L.tkey2.toNat then 0 else 255) ∧
    (r.fmt.depth = 16 → ∀ j, j < 3 ∨ (j = 3 ∧ r.fmt.ct = .rgba) →
      memRead m (o + j) = s.readByte (r.src + y * r.bpl + 2 * (x * r.fmt.ct.channels + j))) ∧
    (r.fmt.depth = 16 → r.fmt.ct = .rgb → r.fmt.trnsEn = true →
      (memRead m (o + 3) = 0 ↔ ∀ k ∈ [(0, L.tkey0), (1, L.tkey1), (2, L.tkey2)],
        256 * (s.readByte (r.src + y * r.bpl + 2 * (x * 3 + k.1))).toNat +
          (s.readByte (r.src + y * r.bpl + 2 * (x * 3 + k.1) + 1)).toNat = k.2.toNat)) := by
  obtain ⟨hcolour, halpha⟩ := memRead_of_readPixel (fun j => to8 r.fmt.depth (s.sampleAt r.src r y x j))
    (Except.ok.inj (h.symm.trans (pixelAt_trueColour s hd hct y x)))
  have hwhole : r.fmt.depth = 8 ∨ r.fmt.depth = 16 := by
    obtain h | h := hct <;> exact Ctype.depth_whole hd (by simp [h]) (by simp [h])
  have hto8 : ∀ j, (to8 r.fmt.depth (s.sampleAt r.src r y x j)).toNat = s.sampleAt r.src r y x j / 2 ^ (r.fmt.depth - 8) :=
    fun j => to8_toNat hwhole (s.sampleAt_lt r.src r y x j)
  refine ⟨fun j hj => by rw [hcolour j hj, hto8], ?_, ?_, fun h16 hrgb htrns => ?_⟩
  · rw [halpha, trueColourAlpha]
    split
    · exact hto8 3
    · exact keyAlpha_toNat (by rw [Bool.and_eq_true, decide_eq_true_eq])
  · rintro h16 j (hj | ⟨rfl, hrgba⟩)
    · rw [hcolour j hj, s.to8_sampleAt r.src y x j h16]
    · rw [halpha, trueColourAlpha, if_pos hrgba, s.to8_sampleAt r.src y x 3 h16]
  · have hnumber := fun j => s.sampleAt_sixteen r.src y x j h16
    rw [show r.fmt.ct.channels = 3 from congrArg Ctype.channels hrgb] at hnumber
    rw [halpha, trueColourAlpha, if_neg (by simp [hrgb]), keyAlpha_eq_zero_iff, htrns, Bool.true_and, decide_eq_true_eq,
      hnumber, hnumber, hnumber]
    simp only [List.forall_mem_cons, List.not_mem_nil, false_implies, implies_true, and_true]

/-- Settles O50: no pixel raises, so every pixel holds its reduced samples and its alpha. -/
theorem expandTrueColour : Obligations.ExpandTrueColour := by
  unfold Obligations.ExpandTrueColour
  intro s f hf hct r v hfits
  have hd := formatFor_depth_mem hf
  have hpalette : f.ct ≠ .palette := by obtain h | h := hct <;> simp [h]
  obtain ⟨t, ht, hdone, hout, hrest, hunits, hwritten⟩ := exec_expand_completes hf rfl hfits (fun h => absurd h hpalette)
    fun y x _ _ => ⟨_, pixelAt_trueColour s (r := r) hd hct y x⟩
  exact ⟨t, ht, hdone, hout, hrest, hunits, fun y x hy hx => trueColour_bytes s (r := r) hd hct (hwritten y x hy hx)⟩

/-! ### Gray, with and without alpha (R199, R200) -/

/-- Alpha of a gray pixel with samples `v`: the second sample, or the key's. -/
def grayAlphaByte (L : Args) (f : PixFmt) (v : Nat → Nat) : Byte :=
  if f.ct = .grayAlpha then to8 f.depth (v 1) else keyAlpha (f.trnsEn && grayKey L f.depth (v 0))

theorem pixelAt_gray (s : State) {L : Args} {r : Raster} (hd : r.fmt.depth ∈ r.fmt.ct.depths)
    (hct : r.fmt.ct = .gray ∨ r.fmt.ct = .grayAlpha) (y x : Nat) :
    pixelAt s.mem L r y x =
      .ok ⟨gray8 r.fmt.depth (s.sampleAt r.src r y x 0), gray8 r.fmt.depth (s.sampleAt r.src r y x 0),
        gray8 r.fmt.depth (s.sampleAt r.src r y x 0), grayAlphaByte L r.fmt (s.sampleAt r.src r y x)⟩ := by
  rw [pixelAt, sample_eq_sampleAt_of_legal s hd]
  obtain h | h := hct
  · simp [h, pixelGray, grayAlphaByte]
  · have hwhole := Ctype.depth_whole hd (by simp [h]) (by simp [h])
    have hgray : ¬ r.fmt.depth < 8 := by omega
    simp [h, pixelGrayAlpha, grayAlphaByte, gray8, hgray]

/-- A written gray pixel in numbers. -/
theorem gray_bytes (s : State) {L : Args} {r : Raster} (hd : r.fmt.depth ∈ r.fmt.ct.depths)
    (hct : r.fmt.ct = .gray ∨ r.fmt.ct = .grayAlpha) {m : Memory} {o y x : Nat}
    (h : pixelAt s.mem L r y x = .ok (readPixel m o)) :
    (∀ j, j < 3 → (memRead m (o + j)).toNat =
      if r.fmt.depth < 8 then s.sampleAt r.src r y x 0 * (255 / (2 ^ r.fmt.depth - 1))
      else s.sampleAt r.src r y x 0 / 2 ^ (r.fmt.depth - 8)) ∧
    (memRead m (o + 3)).toNat =
      (if r.fmt.ct = .grayAlpha then s.sampleAt r.src r y x 1 / 2 ^ (r.fmt.depth - 8)
       else if r.fmt.trnsEn = true ∧ s.sampleAt r.src r y x 0 = L.tkey0.toNat then 0 else 255) ∧
    (r.fmt.depth = 16 → ∀ j, j < 3 →
      memRead m (o + j) = s.readByte (r.src + y * r.bpl + 2 * (x * r.fmt.ct.channels))) ∧
    (r.fmt.depth = 16 → r.fmt.ct = .grayAlpha → memRead m (o + 3) = s.readByte (r.src + y * r.bpl + 2 * (x * 2 + 1))) ∧
    (r.fmt.depth = 16 → r.fmt.ct = .gray → r.fmt.trnsEn = true →
      (memRead m (o + 3) = 0 ↔
        256 * (s.readByte (r.src + y * r.bpl + 2 * x)).toNat + (s.readByte (r.src + y * r.bpl + 2 * x + 1)).toNat =
          L.tkey0.toNat)) := by
  obtain ⟨hcolour, halpha⟩ := memRead_of_readPixel (fun _ => gray8 r.fmt.depth (s.sampleAt r.src r y x 0))
    (Except.ok.inj (h.symm.trans (pixelAt_gray s hd hct y x)))
  have hlegal := Ctype.depth_legal hd
  have hlt := s.sampleAt_lt r.src r y x
  refine ⟨fun j hj => by rw [hcolour j hj, gray8_toNat hlegal (hlt 0)], ?_, fun h16 j hj => ?_, fun h16 hga => ?_,
    fun h16 hgray htrns => ?_⟩
  · rw [halpha, grayAlphaByte]
    split
    · next hga => exact to8_toNat (Ctype.depth_whole hd (by simp [hga]) (by simp [hga])) (hlt 1)
    · exact keyAlpha_toNat (by rw [Bool.and_eq_true, grayKey_iff L hlegal (hlt 0)])
  · rw [hcolour j hj, gray8, if_neg (by omega)]
    exact s.to8_sampleAt r.src y x 0 h16
  · rw [halpha, grayAlphaByte, if_pos hga, s.to8_sampleAt r.src y x 1 h16,
      show r.fmt.ct.channels = 2 from congrArg Ctype.channels hga]
  · rw [halpha, grayAlphaByte, if_neg (by simp [hgray]), keyAlpha_eq_zero_iff, htrns, Bool.true_and,
      grayKey_iff L hlegal (hlt 0), s.sampleAt_sixteen r.src y x 0 h16,
      show r.fmt.ct.channels = 1 from congrArg Ctype.channels hgray, Nat.mul_one, Nat.add_zero]

/-- Settles O51: no pixel raises, so every pixel holds its gray three times and its alpha. -/
theorem expandGray : Obligations.ExpandGray := by
  unfold Obligations.ExpandGray
  intro s f hf hct r v hfits
  have hd := formatFor_depth_mem hf
  have hpalette : f.ct ≠ .palette := by obtain h | h := hct <;> simp [h]
  obtain ⟨t, ht, hdone, hout, hrest, hunits, hwritten⟩ := exec_expand_completes hf rfl hfits (fun h => absurd h hpalette)
    fun y x _ _ => ⟨_, pixelAt_gray s (r := r) hd hct y x⟩
  exact ⟨t, ht, hdone, hout, hrest, hunits, fun y x hy hx => gray_bytes s (r := r) hd hct (hwritten y x hy hx)⟩

/-! ### Palette (R198) -/

/-- Alpha of palette entry `j`: the tRNS byte where there is one. -/
def State.paletteAlpha (s : State) (L : Args) (j : Nat) : Byte :=
  if j < L.trnsLen.toNat then s.readByte (L.trnsAddr.toNat + j) else 255

section
variable (s : State) {L : Args} {r : Raster} (hd : r.fmt.depth ∈ r.fmt.ct.depths) (hct : r.fmt.ct = .palette) {y x j : Nat}
  (hj : s.sampleAt r.src r y x 0 = j)
include hd hct hj

theorem pixelAt_palette (hlt : j < L.plteCount.toNat) :
    pixelAt s.mem L r y x = .ok ⟨s.readByte (L.plteAddr.toNat + 3 * j), s.readByte (L.plteAddr.toNat + 3 * j + 1),
      s.readByte (L.plteAddr.toNat + 3 * j + 2), s.paletteAlpha L j⟩ := by
  simp only [pixelAt, hct, sample_eq_sampleAt_of_legal s hd, hj, pixelPalette, if_neg (not_le.2 hlt)]
  rfl

theorem pixelAt_badIndex (hge : L.plteCount.toNat ≤ j) : pixelAt s.mem L r y x = .error (.paletteIndex j) := by
  simp only [pixelAt, hct, sample_eq_sampleAt_of_legal s hd, hj, pixelPalette, if_pos hge]

/-- A written palette pixel holds the entry of its index. -/
theorem paletteEntry_of_readPixel {m : Memory} {o : Nat} (hlt : j < L.plteCount.toNat)
    (h : pixelAt s.mem L r y x = .ok (readPixel m o)) :
    (∀ i, i < 3 → memRead m (o + i) = s.readByte (L.plteAddr.toNat + 3 * j + i)) ∧ memRead m (o + 3) = s.paletteAlpha L j :=
  memRead_of_readPixel (fun i => s.readByte (L.plteAddr.toNat + 3 * j + i))
    (Except.ok.inj (h.symm.trans (pixelAt_palette s hd hct hj hlt)))

end

/-- Settles O52: every index has an entry, so no pixel raises. -/
theorem expandPalette : Obligations.ExpandPalette := by
  unfold Obligations.ExpandPalette
  intro s f hf hct r v hfits htables hindex
  have hd := formatFor_depth_mem hf
  obtain ⟨t, ht, hdone, hout, hrest, hunits, hwritten⟩ := exec_expand_completes hf rfl hfits (fun _ => htables)
    fun y x hy hx => ⟨_, pixelAt_palette s (r := r) hd hct rfl (hindex y x hy hx)⟩
  exact ⟨t, ht, hdone, hout, hrest, hunits, fun y x hy hx =>
    paletteEntry_of_readPixel s (r := r) hd hct rfl (hindex y x hy hx) (hwritten y x hy hx)⟩

/-- Settles O53: the pixels before the first bad index have entries, and its pixel raises PALETTE_INDEX. -/
theorem expandStopsAtBadIndex : Obligations.ExpandStopsAtBadIndex := by
  unfold Obligations.ExpandStopsAtBadIndex
  intro s f y0 x0 hf hct r v hfits htables hy hx hindex hbad
  have hd := formatFor_depth_mem hf
  have hentry : ∀ y x, x < r.w → ScanBefore y x y0 x0 → v y x < s.latch.plteCount.toNat := fun y x hx' hbefore =>
    hindex y x (by unfold ScanBefore at hbefore; omega) hx' (scanBefore_offset_lt hx' hbefore)
  obtain ⟨t, ht, hfailed, hout, hrest, hwritten⟩ := exec_expand_stops hf rfl hfits (fun _ => htables) hy hx
    (fun y x hx' hbefore => ⟨_, pixelAt_palette s (r := r) hd hct rfl (hentry y x hx' hbefore)⟩)
    (pixelAt_badIndex s (r := r) hd hct rfl hbad)
  refine ⟨t, ht, hfailed, hout, hrest, fun y x _ hx' hlt => ?_⟩
  have hbefore : ScanBefore y x y0 x0 := scanBefore_of_offset_lt hx hlt
  exact paletteEntry_of_readPixel s (r := r) hd hct rfl (hentry y x hx' hbefore) (hwritten y x hx' hbefore)

end Sys2Proof.Machine
end

section
/-! SUPPORT. PACK (R210 to R212): the row register fills sample by sample from the most significant bit down, the bits past the
last sample being 0, and goes to DST row by row. -/

namespace Sys2Proof.Machine

/-! ### Packed samples (R192) -/

/-- Sample `n` of a row of `d`-bit samples packed from the most significant bit of each byte downward. -/
def packedSample (row : Nat → Byte) (d n : Nat) : Nat := (row (n * d / 8)).toNat / 2 ^ (8 - d - n * d % 8) % 2 ^ d

/-- Up to depth 8 the samples of a row are packed in the order of its pixels and channels. -/
theorem rowNumber_eq_packedSample (row : Nat → Byte) {f : PixFmt} {x j : Nat} (hd : f.depth ∈ f.ct.depths) (h16 : f.depth ≠ 16)
    (hj : j < f.ct.channels) : rowNumber row f x j = packedSample row f.depth (x * f.ct.channels + j) := by
  rw [rowNumber, if_neg h16, packedSample]
  obtain ⟨hlow, hone⟩ | h8 | h := Ctype.depth_cases hd
  · obtain rfl : j = 0 := by omega
    rw [if_neg (by omega), hone, Nat.mul_one, Nat.add_zero]
  · rw [if_pos h8, h8, Nat.mul_div_cancel _ (by decide), Nat.mul_mod_left, Nat.pow_zero, Nat.div_one,
      Nat.mod_eq_of_lt (row _).isLt]
  · exact absurd h h16

section
variable {d : Nat} (hd : d = 1 ∨ d = 2 ∨ d = 4 ∨ d = 8)

include hd in
/-- A sample lies in one byte. -/
theorem packed_fits (n : Nat) : n * d % 8 + d ≤ 8 := by
  obtain rfl | rfl | rfl | rfl := hd <;> omega

/-- Samples of one byte lie side by side. -/
theorem packed_before {i n : Nat} (hi : i < n) (hbyte : i * d / 8 = n * d / 8) : i * d % 8 + d ≤ n * d % 8 := by
  have := Nat.mul_le_mul_right d hi
  rw [Nat.succ_mul] at this
  omega

include hd in
theorem packed_byte_lt {n total : Nat} (h : n < total) : n * d / 8 < (total * d + 7) / 8 := by
  have := Nat.mul_lt_mul_of_pos_right h (show 0 < d by omega)
  omega

end

theorem shifted_lt {d v : Nat} (e : Nat) (hv : v < 2 ^ d) : v * 2 ^ e < 2 ^ (e + d) := by
  rw [Nat.pow_add, Nat.mul_comm]
  exact Nat.mul_lt_mul_of_pos_left hv (Nat.two_pow_pos e)

/-- A sample put above `e` clear bits of a byte: nothing carries, so OR is addition. -/
theorem byte_or_toNat {b : Byte} {d e v : Nat} (hb : 2 ^ (e + d) ∣ b.toNat) (hv : v < 2 ^ d) (he : e + d ≤ 8) :
    (b ||| BitVec.ofNat 8 (v <<< e)).toNat = b.toNat + v * 2 ^ e := by
  have hlt := shifted_lt e hv
  obtain ⟨c, hc⟩ := hb
  rw [BitVec.toNat_or, BitVec.toNat_ofNat, Nat.shiftLeft_eq,
    Nat.mod_eq_of_lt (hlt.trans_le (Nat.pow_le_pow_right (by decide) he)), hc, Nat.two_pow_add_eq_or_of_lt hlt]

/-- What is added below bit `a` does not show above it. -/
theorem add_div_two_pow {b v a e : Nat} (hb : 2 ^ a ∣ b) (hv : v < 2 ^ a) (he : a ≤ e) : (b + v) / 2 ^ e = b / 2 ^ e := by
  obtain ⟨c, rfl⟩ := hb
  rw [← Nat.add_sub_cancel' he, Nat.pow_add, ← Nat.div_div_eq_div_mul, ← Nat.div_div_eq_div_mul,
    Nat.mul_add_div (Nat.two_pow_pos a), Nat.div_eq_of_lt hv, Nat.add_zero, Nat.mul_div_cancel_left _ (Nat.two_pow_pos a)]

/-! ### The row register (R212) -/

theorem orRow_getD_self {row : List Byte} {k : Nat} (v : Byte) (hk : k < row.length) :
    (orRow row k v).getD k 0 = row.getD k 0 ||| v := by
  rw [orRow, List.getD_eq_getElem?_getD, List.getElem?_set_self hk, Option.getD_some]

theorem orRow_getD_ne {row : List Byte} {k k' : Nat} (v : Byte) (hk : k' ≠ k) : (orRow row k v).getD k' 0 = row.getD k' 0 := by
  rw [orRow, List.getD_eq_getElem?_getD, List.getElem?_set_ne hk.symm, List.getD_eq_getElem?_getD]

/-- The row register after `n` samples of `d` bits: it has `len` bytes, the samples read back as `val`, and the bits past them are
0. Byte `k` holds the samples' bits from bit `8 * k` on, `n * d - 8 * k` of them if not all eight. -/
structure RowPacked (d len : Nat) (val : Nat → Byte) (n : Nat) (row : List Byte) : Prop where
  length  : row.length = len
  samples : ∀ i, i < n → packedSample (fun k => row.getD k 0) d i = (val i).toNat
  clear   : ∀ k, 2 ^ (8 - (n * d - 8 * k)) ∣ (row.getD k 0).toNat

theorem RowPacked.start (d len : Nat) (val : Nat → Byte) : RowPacked d len val 0 (List.replicate len 0) where
  length := List.length_replicate
  samples := fun i hi => absurd hi (Nat.not_lt_zero i)
  clear := fun k => by
    have hzero : (List.replicate len (0 : Byte)).getD k 0 = 0 := by
      rw [List.getD_eq_getElem?_getD, List.getElem?_replicate]
      split <;> rfl
    rw [hzero]
    exact Dvd.intro 0 rfl

/-- The next sample goes below the ones of its byte. -/
theorem RowPacked.put {d len n : Nat} {val : Nat → Byte} {row : List Byte} (h : RowPacked d len val n row)
    (hd : d = 1 ∨ d = 2 ∨ d = 4 ∨ d = 8) (hn : n * d / 8 < len) (hv : (val n).toNat < 2 ^ d) :
    RowPacked d len val (n + 1) (orRow row (n * d / 8) (BitVec.ofNat 8 ((val n).toNat <<< (8 - d - n * d % 8)))) := by
  have hfits := packed_fits hd n
  obtain ⟨e, he⟩ : ∃ e, 8 - d - n * d % 8 = e := ⟨_, rfl⟩
  have hclear : 2 ^ (e + d) ∣ (row.getD (n * d / 8) 0).toNat := by
    have := h.clear (n * d / 8)
    rwa [show 8 - (n * d - 8 * (n * d / 8)) = e + d by omega] at this
  have hbyte : ((orRow row (n * d / 8) (BitVec.ofNat 8 ((val n).toNat <<< e))).getD (n * d / 8) 0).toNat =
      (row.getD (n * d / 8) 0).toNat + (val n).toNat * 2 ^ e := by
    rw [orRow_getD_self _ (h.length ▸ hn), byte_or_toNat hclear hv (by omega)]
  rw [he]
  refine ⟨by rw [orRow, List.length_set, h.length], fun i hi => ?_, fun k => ?_⟩
  · obtain hi | rfl := Nat.lt_or_eq_of_le (Nat.le_of_lt_succ hi)
    · rw [← h.samples i hi, packedSample, packedSample]
      by_cases hsame : i * d / 8 = n * d / 8
      · have hbefore := packed_before hi hsame
        rw [hsame, hbyte, add_div_two_pow hclear (shifted_lt e hv) (by omega)]
      · rw [orRow_getD_ne _ hsame]
    · obtain ⟨c, hc⟩ := hclear
      rw [packedSample, he, hbyte, hc, Nat.pow_add, Nat.mul_assoc, Nat.mul_comm (val i).toNat, ← Nat.mul_add,
        Nat.mul_div_cancel_left _ (Nat.two_pow_pos e), Nat.mul_add_mod, Nat.mod_eq_of_lt hv]
  · rw [Nat.succ_mul]
    by_cases hk : k = n * d / 8
    · rw [hk, hbyte, show 8 - (n * d + d - 8 * (n * d / 8)) = e by omega]
      exact Nat.dvd_add ((Nat.pow_dvd_pow 2 (Nat.le_add_right e d)).trans hclear) (Nat.dvd_mul_left _ _)
    · rw [orRow_getD_ne _ hk]
      exact (Nat.pow_dvd_pow 2 (by omega)).trans (h.clear k)

/-- The padding bits of a finished row are 0: they are the ones past the last sample of its last byte. -/
theorem RowPacked.padding {d n : Nat} {val : Nat → Byte} {row : List Byte} (h : RowPacked d ((n * d + 7) / 8) val n row)
    (hpad : n * d % 8 ≠ 0) : (row.getD ((n * d + 7) / 8 - 1) 0).toNat % 2 ^ (8 - n * d % 8) = 0 := by
  have := h.clear ((n * d + 7) / 8 - 1)
  rw [show 8 - (n * d - 8 * ((n * d + 7) / 8 - 1)) = 8 - n * d % 8 by omega] at this
  exact Nat.mod_eq_zero_of_dvd this

/-! ### One row of PACK (R210) -/

/-- Sample `n` of row `y` of PACK's input, one byte a sample (R211). -/
def packInput (m : Memory) (r : Raster) (y n : Nat) : Byte := memRead m (r.src + (y * (r.w * r.fmt.ct.channels) + n))

theorem packInput_pixel (m : Memory) (r : Raster) (y x j : Nat) :
    packInput m r y (x * r.fmt.ct.channels + j) = memRead m (r.src + (y * r.w + x) * r.fmt.ct.channels + j) := by
  rw [packInput]
  congr 1
  ring

theorem Raster.sampleBytes_eq_rows (r : Raster) : r.sampleBytes = r.h * (r.w * r.fmt.ct.channels) := by
  rw [Raster.sampleBytes, Nat.mul_comm r.w r.h, Nat.mul_assoc]

theorem Raster.bpl_eq_samples (r : Raster) : r.bpl = (r.w * r.fmt.ct.channels * r.fmt.depth + 7) / 8 := by
  rw [Raster.bpl, PixFmt.bpl_eq, PixFmt.bitsPP, Nat.mul_assoc]

theorem Ctype.depth_packed {ct : Ctype} {d : Nat} (hd : d ∈ ct.depths) (h16 : d ≠ 16) : d = 1 ∨ d = 2 ∨ d = 4 ∨ d = 8 := by
  have := Ctype.depth_legal hd
  omega

section
variable {m : Memory} {r : Raster} {y : Nat} (hd : r.fmt.depth ∈ r.fmt.ct.depths) (h16 : r.fmt.depth ≠ 16)
include hd h16

/-- One sample that fits: at depth 8 its byte is still 0, so writing it is the OR that the lower depths do. -/
theorem packSample_packed {x j : Nat} {row : List Byte} (hx : x < r.w) (hj : j < r.fmt.ct.channels)
    (hfit : (packInput m r y (x * r.fmt.ct.channels + j)).toNat < 2 ^ r.fmt.depth)
    (h : RowPacked r.fmt.depth r.bpl (packInput m r y) (x * r.fmt.ct.channels + j) row) :
    (packSample m r y x j row).2 = none ∧
      RowPacked r.fmt.depth r.bpl (packInput m r y) (x * r.fmt.ct.channels + j + 1) (packSample m r y x j row).1 := by
  have hpacked := Ctype.depth_packed hd h16
  have hbyte : (x * r.fmt.ct.channels + j) * r.fmt.depth / 8 < r.bpl := by
    rw [r.bpl_eq_samples]
    exact packed_byte_lt hpacked (row_offset_lt hx hj)
  have hput := h.put hpacked hbyte hfit
  suffices hsample : packSample m r y x j row = (orRow row ((x * r.fmt.ct.channels + j) * r.fmt.depth / 8)
      (BitVec.ofNat 8 ((packInput m r y (x * r.fmt.ct.channels + j)).toNat <<<
        (8 - r.fmt.depth - (x * r.fmt.ct.channels + j) * r.fmt.depth % 8))), none) by
    rw [hsample]
    exact ⟨rfl, hput⟩
  simp only [packSample, ← packInput_pixel]
  obtain ⟨hlow, hone⟩ | h8 | h := Ctype.depth_cases hd
  · obtain rfl : j = 0 := by omega
    rw [if_neg (by omega), if_neg (not_le.2 hfit), hone, Nat.mul_one, Nat.add_zero]
  · have hclear := h.clear (x * r.fmt.ct.channels + j)
    rw [h8, Nat.mul_comm, Nat.sub_self] at hclear
    have hzero : row.getD (x * r.fmt.ct.channels + j) 0 = 0#8 :=
      BitVec.eq_of_toNat_eq (Nat.eq_zero_of_dvd_of_lt hclear (BitVec.isLt _))
    rw [if_pos h8, h8, Nat.mul_div_cancel _ (by decide), Nat.mul_mod_left, orRow, hzero, BitVec.zero_or]
    rfl
  · exact absurd h h16

/-- The first `n` pixels of a row, when their samples fit. -/
theorem packRow_packed {n : Nat} (hn : n ≤ r.w)
    (hfit : ∀ i, i < n * r.fmt.ct.channels → (packInput m r y i).toNat < 2 ^ r.fmt.depth) :
    ∃ row, sweep (fun x => sweep (packSample m r y x) r.fmt.ct.channels) n (List.replicate r.bpl 0) = (row, none) ∧
      RowPacked r.fmt.depth r.bpl (packInput m r y) (n * r.fmt.ct.channels) row := by
  refine exists_sweep_completes _
    (fun x => RowPacked r.fmt.depth r.bpl (packInput m r y) (x * r.fmt.ct.channels)) n _
    (by rw [Nat.zero_mul]; exact .start _ _ _) fun x row hx hrow => ?_
  rw [Nat.succ_mul]
  exact sweep_completes (packSample m r y x)
    (fun j => RowPacked r.fmt.depth r.bpl (packInput m r y) (x * r.fmt.ct.channels + j)) r.fmt.ct.channels row hrow
    fun j row hj hrow => packSample_packed hd h16 (hx.trans_le hn) hj (hfit _ (row_offset_lt hx hj)) hrow

theorem packRow_of_fits (hfit : ∀ i, i < r.w * r.fmt.ct.channels → (packInput m r y i).toNat < 2 ^ r.fmt.depth) :
    ∃ row, packRow m r y = (row, none) ∧
      RowPacked r.fmt.depth r.bpl (packInput m r y) (r.w * r.fmt.ct.channels) row :=
  packRow_packed hd h16 le_rfl hfit

/-- The first sample of a row that does not fit ends the row by SAMPLE_RANGE. -/
theorem packRow_stopped {x : Nat} (hx : x < r.w) (hlow : r.fmt.depth < 8)
    (hfit : ∀ i, i < x → (packInput m r y i).toNat < 2 ^ r.fmt.depth) (hbad : 2 ^ r.fmt.depth ≤ (packInput m r y x).toNat) :
    ∃ row, packRow m r y = (row, some (.sampleRange (packInput m r y x).toNat)) := by
  obtain ⟨-, hone⟩ | h8 | h := Ctype.depth_cases hd
  · obtain ⟨row, hrow, -⟩ := packRow_packed (m := m) (y := y) hd h16 hx.le (by rwa [hone, Nat.mul_one])
    have hinput := packInput_pixel m r y x 0
    rw [hone, Nat.mul_one, Nat.mul_one, Nat.add_zero] at hinput
    refine ⟨row, sweep_of_raised _ hrow (sweep_of_raised (k := 0) _ (sweep_zero _ _) ?_ (by omega)) hx⟩
    simp only [packSample, hone, Nat.mul_one, Nat.add_zero] at hinput ⊢
    rw [← hinput, if_neg (by omega), if_pos hbad]
  · omega
  · omega

end

/-! ### The rows of PACK -/

/-- Byte `x` of row `y` of `raw` is that of the row register of row `y` on MEM as it was at the start. -/
def Packs (m₀ : Memory) (r : Raster) (raw : Nat → Nat → Byte) (y x : Nat) : Prop := raw y x = (packRow m₀ r y).1.getD x 0

theorem packs_causal (m₀ : Memory) (r : Raster) (n : Nat) : Causal n (Packs m₀ r) :=
  fun _ _ y x hx hsame h => (hsame y x hx (.inr ⟨rfl, Nat.lt_succ_self x⟩)).trans h

section
variable {r : Raster} {m₀ : Memory} (hap : Apart r.src r.sampleBytes r.dst r.rawLen)
include hap

/-- PACK does not write what it reads: every row register is the one on MEM as it was at the start. -/
theorem packRow_of_rowsDone {P : (Nat → Nat → Byte) → Nat → Nat → Prop} {y : Nat} {m : Memory} (hy : y < r.h)
    (h : RowsDone P r.dst r.bpl m₀ y 0 m) : packRow m r y = packRow m₀ r y :=
  packRow_agree r (fun j hj => ⟨j, hj, rfl⟩) hy (h.written.agreeOn_apart hap (Nat.mul_le_mul_right r.bpl hy.le))

theorem packOneRow_rowsDone {y : Nat} {k : PackWork} (hy : y < r.h) (hok : (packRow m₀ r y).2 = none)
    (hk : RowsDone (Packs m₀ r) r.dst r.bpl m₀ y 0 k.mem) :
    (packOneRow r y k).2 = none ∧ (packOneRow r y k).1.rows = y + 1 ∧
      RowsDone (Packs m₀ r) r.dst r.bpl m₀ (y + 1) 0 (packOneRow r y k).1.mem := by
  have hrow : packRow k.mem r y = ((packRow m₀ r y).1, none) := (packRow_of_rowsDone hap hy hk).trans (Prod.ext rfl hok)
  simp only [packOneRow, hrow, true_and]
  refine (loop_invariant _ (RowsDone (Packs m₀ r) r.dst r.bpl m₀ y) r.bpl k.mem hk fun x m hx hm => ?_).nextRow
  rw [Nat.add_assoc]
  exact hm.write (packs_causal m₀ r r.bpl) _ fun _ hself _ => hself

theorem packRows_rowsDone {rows : Nat} (hrows : rows ≤ r.h) (hok : ∀ y, y < rows → (packRow m₀ r y).2 = none) :
    ∃ k, sweep (packOneRow r) rows ⟨m₀, [], 0⟩ = (k, none) ∧ k.rows = rows ∧
      RowsDone (Packs m₀ r) r.dst r.bpl m₀ rows 0 k.mem :=
  exists_sweep_completes (packOneRow r) (fun y k => k.rows = y ∧ RowsDone (Packs m₀ r) r.dst r.bpl m₀ y 0 k.mem) rows _
    ⟨rfl, .start⟩ fun y _ hy hk => packOneRow_rowsDone hap (hy.trans_le hrows) (hok y hy) hk.2

/-- A row that raises ends PACK before it is written. -/
theorem packRows_stopped {y : Nat} {row : List Byte} {e : CmdError} (hy : y < r.h)
    (hok : ∀ y', y' < y → (packRow m₀ r y').2 = none) (hbad : packRow m₀ r y = (row, some e)) :
    ∃ k, packRows r m₀ = (k, some e) ∧ k.rows = y ∧ RowsDone (Packs m₀ r) r.dst r.bpl m₀ y 0 k.mem := by
  obtain ⟨k, hsweep, hcount, hdone⟩ := packRows_rowsDone hap hy.le hok
  refine ⟨{ k with row := row }, sweep_of_raised _ hsweep ?_ hy, hcount, hdone⟩
  simp only [packOneRow, packRow_of_rowsDone hap hy hdone, hbad]

end

/-! ### The raw image in DST -/

/-- Row `y` of the raw image at `r.dst` in `t` holds the samples of PACK's input in `s`, and its padding bits are 0. -/
structure State.PackedRow (s t : State) (r : Raster) (y : Nat) : Prop where
  samples : ∀ x j, x < r.w → j < r.fmt.ct.channels →
    t.sampleAt r.dst r y x j = (s.readByte (r.src + (y * r.w + x) * r.fmt.ct.channels + j)).toNat
  padding : r.w * r.fmt.bitsPP % 8 ≠ 0 →
    (t.readByte (r.dst + y * r.bpl + (r.bpl - 1))).toNat % 2 ^ (8 - r.w * r.fmt.bitsPP % 8) = 0

theorem State.packedRow_of_rowsDone {s t : State} {r : Raster} {y rows : Nat} (hd : r.fmt.depth ∈ r.fmt.ct.depths)
    (h16 : r.fmt.depth ≠ 16) (hy : y < rows) (hdone : RowsDone (Packs s.mem r) r.dst r.bpl s.mem rows 0 t.mem)
    (hfit : ∀ i, i < r.w * r.fmt.ct.channels → (packInput s.mem r y i).toNat < 2 ^ r.fmt.depth) :
    State.PackedRow s t r y := by
  obtain ⟨row, hrow, hpacked⟩ := packRow_of_fits hd h16 hfit
  have hbyte : ∀ k, k < r.bpl → t.readByte (r.dst + y * r.bpl + k) = row.getD k 0 := fun k hk => by
    have := hdone.byte hy hk
    rwa [Packs, hrow] at this
  refine ⟨fun x j hx hj => ?_, fun hpad => ?_⟩
  · have hn : x * r.fmt.ct.channels + j < r.w * r.fmt.ct.channels := row_offset_lt hx hj
    have hlast := packed_byte_lt (Ctype.depth_packed hd h16) hn
    rw [← r.bpl_eq_samples] at hlast
    rw [State.sampleAt, rowNumber_eq_packedSample _ hd h16 hj, packedSample, hbyte _ hlast]
    exact (hpacked.samples _ hn).trans (congrArg BitVec.toNat (packInput_pixel s.mem r y x j))
  · have hbits : r.w * r.fmt.bitsPP = r.w * r.fmt.ct.channels * r.fmt.depth := (Nat.mul_assoc _ _ _).symm
    rw [hbits] at hpad ⊢
    rw [r.bpl_eq_samples] at hpacked
    have hbpl := r.bpl_eq_samples
    rw [hbyte _ (by omega), hbpl]
    exact hpacked.padding hpad

/-! ### The command -/

theorem exec_pack_sameRest {s t : State} (h : exec .pack s = .next t) : State.sameRest s t := by
  obtain ⟨hhost, hcrc, -⟩ := commandFrame .pack s t h
  exact ⟨hhost, hcrc (by simp) (by simp)⟩

theorem formatFor_pack_depth {L : Args} {f : PixFmt} (h : formatFor .pack L = some f) : f.depth ≠ 16 := by
  obtain ⟨-, hfits⟩ := (formatFor_eq_some_iff _ _ _).1 h
  exact of_decide_eq_true hfits

section
variable {s : State} {f : PixFmt} {r : Raster} (hf : formatFor .pack s.latch = some f) (hr : s.latch.raster f = r)
  (hfits : s.latch.fits s.params r.sampleBytes r.rawLen)
include hf hr hfits

theorem exec_pack_of_fits : exec .pack s = .next (packRun s r) := by
  subst hr
  rw [exec, execPack, hf]
  exact congrArg _ (State.checked_of_none _ _ _ hfits.firstError_rasterChecks)

/-- PACK of samples that fit writes every row (R210). -/
theorem exec_pack_completes
    (hfit : ∀ y, y < r.h → ∀ i, i < r.w * r.fmt.ct.channels → (packInput s.mem r y i).toNat < 2 ^ r.fmt.depth) :
    ∃ t, exec .pack s = .next t ∧ State.completedWith s t r.h ∧ State.sameOutside s t r.dst r.rawLen ∧
      State.sameRest s t ∧ ∀ y, y < r.h → State.PackedRow s t r y := by
  have ht := exec_pack_of_fits hf hr hfits
  subst hr
  have hd := formatFor_depth_mem hf
  have h16 := formatFor_pack_depth hf
  obtain ⟨k, hrun, hcount, hdone⟩ := packRows_rowsDone (m₀ := s.mem) hfits.apart_needed le_rfl fun y hy => by
    obtain ⟨row, hrow, -⟩ := packRow_of_fits hd h16 (hfit y hy)
    rw [hrow]
  have hrest := exec_pack_sameRest ht
  rw [packRun, packRows, hrun] at ht hrest
  exact ⟨_, ht, ⟨rfl, congrArg (BitVec.ofNat 32) hcount, rfl⟩, fun a ha => hdone.memRead_outside ha, hrest,
    fun y hy => State.packedRow_of_rowsDone hd h16 hy hdone (hfit y hy)⟩

/-- PACK with a sample that does not fit writes the rows before its row (R210, R212). -/
theorem exec_pack_stops {y x : Nat} (hy : y < r.h) (hx : x < r.w) (hlow : r.fmt.depth < 8)
    (hfit : ∀ y', y' < y → ∀ i, i < r.w * r.fmt.ct.channels → (packInput s.mem r y' i).toNat < 2 ^ r.fmt.depth)
    (hrow : ∀ i, i < x → (packInput s.mem r y i).toNat < 2 ^ r.fmt.depth)
    (hbad : 2 ^ r.fmt.depth ≤ (packInput s.mem r y x).toNat) :
    ∃ t, exec .pack s = .next t ∧ State.failedWith s t 0x0B (packInput s.mem r y x).toNat y ∧
      State.sameOutside s t r.dst (y * r.bpl) ∧ State.sameRest s t ∧ ∀ y', y' < y → State.PackedRow s t r y' := by
  have ht := exec_pack_of_fits hf hr hfits
  subst hr
  have hd := formatFor_depth_mem hf
  have h16 := formatFor_pack_depth hf
  obtain ⟨row, hstop⟩ := packRow_stopped (m := s.mem) hd h16 hx hlow hrow hbad
  obtain ⟨k, hrun, hcount, hdone⟩ := packRows_stopped (m₀ := s.mem) hfits.apart_needed hy (fun y' hy' => by
    obtain ⟨row, hrow, -⟩ := packRow_of_fits hd h16 (hfit y' hy')
    rw [hrow]) hstop
  have hrest := exec_pack_sameRest ht
  rw [packRun, hrun] at ht hrest
  exact ⟨_, ht, ⟨rfl, rfl, congrArg (BitVec.ofNat 32) hcount⟩, fun a ha => hdone.memRead_outside ha, hrest,
    fun y' hy' => State.packedRow_of_rowsDone hd h16 hy' hdone (hfit y' hy')⟩

end

/-- Settles O54: every sample fits, so every row is packed. -/
theorem packWritesSamples : Obligations.PackWritesSamples := by
  unfold Obligations.PackWritesSamples
  intro s f hf r hfits hvalues
  obtain ⟨t, ht, hdone, hout, hrest, hrows⟩ := exec_pack_completes hf rfl hfits fun y hy i hi => hvalues _ (by
    rw [Raster.sampleBytes_eq_rows]
    exact row_offset_lt hy hi)
  exact ⟨t, ht, hdone, hout, hrest, fun y x j hy => (hrows y hy).samples x j, fun y hy => (hrows y hy).padding⟩

/-- Settles O55: below depth 8 a pixel is one sample; the rows before the first bad one are packed, and its row raises
SAMPLE_RANGE. -/
theorem packStopsAtBadSample : Obligations.PackStopsAtBadSample := by
  unfold Obligations.PackStopsAtBadSample
  intro s f y0 x0 hf hlow r hfits hy hx hvalues hbad
  have hone : r.fmt.ct.channels = 1 := by
    have hcases := Ctype.depth_cases (formatFor_depth_mem hf)
    obtain ⟨-, h⟩ := hcases.resolve_right (by omega)
    exact h
  have hinput : ∀ y i, packInput s.mem r y i = s.readByte (r.src + (y * r.w + i)) := fun y i => by
    rw [packInput, hone, Nat.mul_one, State.readByte]
  obtain ⟨t, ht, hfailed, hout, hrest, hrows⟩ := exec_pack_stops hf rfl hfits hy hx hlow
    (fun y hy' i hi => by
      rw [hone, Nat.mul_one] at hi
      rw [hinput]
      exact hvalues _ (Nat.lt_add_right x0 (row_offset_lt hy' hi)))
    (fun i hi => by
      rw [hinput]
      exact hvalues _ (Nat.add_lt_add_left hi _))
    (by rw [hinput]; exact hbad)
  rw [hinput] at hfailed
  refine ⟨t, ht, hfailed, hout, hrest, fun y x hy' hx' => ?_, fun y hy' => (hrows y hy').padding⟩
  have hsample := (hrows y hy').samples x 0 hx' (hone ▸ Nat.one_pos)
  rwa [hone, Nat.mul_one, Nat.add_zero] at hsample

/-! ### EXPAND of PACK (R213) -/

theorem formatFor_expand_of_pack_rgba {L L' : Args} {f : PixFmt} (h : formatFor .pack L = some f) (hct : f.ct = .rgba)
    (hformat : L'.format = L.format) : formatFor .expand L' = some f := by
  obtain ⟨hpix, -⟩ := (formatFor_eq_some_iff _ _ _).1 h
  exact (formatFor_eq_some_iff _ _ _).2 ⟨hformat ▸ hpix, by simp [formatFits, hct]⟩

/-- Byte `k` of an RGBA8 image: its row, column and channel (R193). -/
theorem rgba_byte_index {w h k : Nat} (hk : k < 4 * w * h) :
    ∃ y x j, y < h ∧ x < w ∧ j < 4 ∧ k = 4 * (y * w + x) + j := by
  have hlt : k / 4 < w * h := by
    rw [Nat.mul_assoc] at hk
    omega
  have hw : 0 < w := Nat.pos_of_ne_zero fun h0 => by
    rw [h0, Nat.zero_mul] at hlt
    omega
  refine ⟨k / 4 / w, k / 4 % w, k % 4, Nat.div_lt_of_lt_mul hlt, Nat.mod_lt _ hw, Nat.mod_lt _ (by decide), ?_⟩
  rw [Nat.div_add_mod']
  omega

/-- Settles O56: at depth 8 PACK's samples are the bytes of SRC, and EXPAND writes the samples back as bytes. -/
theorem expandInvertsPackOfRgba : Obligations.ExpandInvertsPackOfRgba := by
  unfold Obligations.ExpandInvertsPackOfRgba
  intro s f d n hf hct r L hfits hfits'
  have h8 : f.depth = 8 :=
    (Ctype.depth_whole (formatFor_depth_mem hf) (by simp [hct]) (by simp [hct])).resolve_right (formatFor_pack_depth hf)
  have hchannels : f.ct.channels = 4 := congrArg Ctype.channels hct
  have hreduced : ∀ v, v / 2 ^ (f.depth - 8) = v := fun v => by rw [h8, Nat.sub_self, Nat.pow_zero, Nat.div_one]
  obtain ⟨t, ht, ⟨htstatus, -⟩, -, ⟨hthost, -⟩, hsamples, -⟩ := packWritesSamples s f hf hfits fun k _ => by
    rw [h8]
    exact (s.readByte _).isLt
  obtain ⟨u, hu, ⟨hustatus, -⟩, -, -, -, hpixels⟩ := expandTrueColour (t.withLatch L) f
    (formatFor_expand_of_pack_rgba hf hct rfl) (.inl hct)
    (by rw [show (t.withLatch L).params = s.params from hthost.params]; exact hfits')
  refine ⟨t, u, ht, hu, ?_, fun k hk => ?_⟩
  · rw [hustatus, show (t.withLatch L).status = t.status from rfl, htstatus]
  · obtain ⟨y, x, j, hy, hx, hj, rfl⟩ := rgba_byte_index hk
    obtain ⟨hcolour, halpha, -⟩ := hpixels y x hy hx
    have hsample := hsamples y x j hy hx (hchannels ▸ hj)
    have hnumber : (u.readByte (d.toNat + 4 * (y * r.w + x) + j)).toNat = t.sampleAt r.dst r y x j := by
      obtain hj | rfl : j < 3 ∨ j = 3 := by omega
      · exact (hcolour j hj).trans (hreduced _)
      · exact halpha.trans ((if_pos hct).trans (hreduced _))
    rw [hchannels, Nat.mul_comm] at hsample
    apply BitVec.eq_of_toNat_eq
    rw [← Nat.add_assoc, ← Nat.add_assoc, hnumber, hsample]

end Sys2Proof.Machine
end

section
/-! SUPPORT. The Adam7 schedule covers the image (R236): a pass holds the pixels of one residue of the rows and one of the columns, and
every pixel has the residues of exactly one pass. -/

namespace Sys2Proof.Machine

/-! ### The places of a pass (R230, R231) -/

theorem lt_ceilDiv_sub_iff {start size inc k : Nat} (h : 0 < inc) :
    k < (if start < size then ceilDiv (size - start) inc else 0) ↔ start + k * inc < size := by
  rw [ceilDiv_sub_eq h, Nat.lt_iff_add_one_le, Nat.le_div_iff_mul_le h, Nat.succ_mul]
  omega

theorem lt_passWidth_iff {w p i : Nat} : i < passWidth w p ↔ (adam7Pass p).sc + i * (adam7Pass p).ci < w :=
  lt_ceilDiv_sub_iff (adam7Pass_increments_pos p).2

/-- A row of a pass that has pixels is a row of the stream (R232). -/
theorem lt_passRows {w h p row i : Nat} (hi : i < passWidth w p) (hrow : (adam7Pass p).sr + row * (adam7Pass p).ri < h) :
    row < passRows w h p := by
  rw [passRows, if_neg (Nat.ne_zero_of_lt hi)]
  exact (lt_ceilDiv_sub_iff (adam7Pass_increments_pos p).1).2 hrow

theorem adam7Pass_starts_lt (p : Nat) : (adam7Pass p).sr < (adam7Pass p).ri ∧ (adam7Pass p).sc < (adam7Pass p).ci := by
  unfold adam7Pass
  split <;> decide

/-- The steps of `inc` from a start below it are the residue class of the start. -/
theorem eq_start_add_mul_iff {start inc k n : Nat} (h : start < inc) : n = start + k * inc ↔ n % inc = start ∧ n / inc = k := by
  rw [and_comm, Nat.div_mod_unique (Nat.zero_lt_of_lt h), Nat.mul_comm inc, and_iff_left h, eq_comm]

/-! ### The pass of a pixel -/

/-- The pass of pixel `x` of row `y`, as R236 names it. -/
def passOf (y x : Nat) : Nat :=
  if y % 2 = 1 then 6 else if x % 2 = 1 then 5 else if y % 4 = 2 then 4 else if x % 4 = 2 then 3
  else if y % 8 = 4 then 2 else if x % 8 = 4 then 1 else 0

theorem passOf_lt (y x : Nat) : passOf y x < 7 := by
  unfold passOf
  split_ifs <;> decide

/-- The residues of the seven passes are apart, and every pixel has those of one pass (R230). -/
theorem eq_passOf_iff {p : Nat} (hp : p < 7) (y x : Nat) :
    p = passOf y x ↔ y % (adam7Pass p).ri = (adam7Pass p).sr ∧ x % (adam7Pass p).ci = (adam7Pass p).sc := by
  unfold passOf
  constructor
  · rintro rfl
    split_ifs <;> simp only [adam7Pass] <;> omega
  · rintro ⟨hy, hx⟩
    interval_cases p <;> simp only [adam7Pass] at hy hx <;> split_ifs <;> omega

/-- A place in a pass is the pixel's pass and its quotients. -/
theorem pass_place_iff {p row i y x : Nat} (hp : p < 7) :
    (y = (adam7Pass p).sr + row * (adam7Pass p).ri ∧ x = (adam7Pass p).sc + i * (adam7Pass p).ci) ↔
      p = passOf y x ∧ row = y / (adam7Pass p).ri ∧ i = x / (adam7Pass p).ci := by
  obtain ⟨hsr, hsc⟩ := adam7Pass_starts_lt p
  rw [eq_start_add_mul_iff hsr, eq_start_add_mul_iff hsc, eq_passOf_iff hp, and_and_and_comm, eq_comm (a := row),
    eq_comm (a := i)]

/-- No two places of the schedule are the same pixel (R236). -/
theorem pass_place_inj {p row i p' row' i' : Nat} (hp : p < 7) (hp' : p' < 7)
    (hy : (adam7Pass p').sr + row' * (adam7Pass p').ri = (adam7Pass p).sr + row * (adam7Pass p).ri)
    (hx : (adam7Pass p').sc + i' * (adam7Pass p').ci = (adam7Pass p).sc + i * (adam7Pass p).ci) :
    p' = p ∧ row' = row ∧ i' = i := by
  obtain ⟨hpass, hrow, hi⟩ := (pass_place_iff hp).1 ⟨rfl, rfl⟩
  obtain ⟨hpass', hrow', hi'⟩ := (pass_place_iff hp').1 ⟨hy.symm, hx.symm⟩
  obtain rfl : p' = p := hpass'.trans hpass.symm
  exact ⟨rfl, hrow'.trans hrow.symm, hi'.trans hi.symm⟩

/-- Settles O57: the pixel's residues name its pass, and its quotients the place in it. -/
theorem adam7CoversEachPixelOnce : Obligations.Adam7CoversEachPixelOnce := by
  unfold Obligations.Adam7CoversEachPixelOnce
  intro w h x y hx hy
  obtain ⟨hyplace, hxplace⟩ := (pass_place_iff (passOf_lt y x)).2 ⟨rfl, rfl, rfl⟩
  have hi : x / (adam7Pass (passOf y x)).ci < passWidth w (passOf y x) := lt_passWidth_iff.2 (hxplace ▸ hx)
  refine ⟨_, _, _, passOf_lt y x, lt_passRows hi (hyplace ▸ hy), hi, hyplace, hxplace, rfl, ?_⟩
  intro p' r' i' hp' _ _ hy' hx'
  exact pass_place_inj (passOf_lt y x) hp' (hy'.symm.trans hyplace) (hx'.symm.trans hxplace)

end Sys2Proof.Machine
end

section
/-! SUPPORT. Images bit by bit (R192): a row is a string of bits, most significant first, a pixel is a run of `bitsPP` of them, and one
turn of the scatter (R235) copies that run, whether a pixel is less than a byte or whole bytes. -/

namespace Sys2Proof.Machine

/-! ### Rows as bit strings -/

/-- Bit `n` of a row of bytes, from the most significant bit of byte 0 on. -/
def rowBit (row : Nat → Byte) (n : Nat) : Bool := (row (n / 8)).getLsbD (7 - n % 8)

/-- Pixel `x` of `row` has the bits of pixel `x'` of `row'`. -/
def SamePixel (f : PixFmt) (row : Nat → Byte) (x : Nat) (row' : Nat → Byte) (x' : Nat) : Prop :=
  ∀ k, k < f.bitsPP → rowBit row (x * f.bitsPP + k) = rowBit row' (x' * f.bitsPP + k)

theorem rowBit_zero (n : Nat) : rowBit (fun _ => 0) n = false := BitVec.getLsbD_zero

theorem rowBit_add {row : Nat → Byte} {n k : Nat} (hk : n % 8 + k < 8) :
    rowBit row (n + k) = (row (n / 8)).toNat.testBit (7 - (n % 8 + k)) := by
  rw [rowBit, show (n + k) / 8 = n / 8 by omega, show (n + k) % 8 = n % 8 + k by omega]
  rfl

/-- A byte is its eight bits. -/
theorem byte_eq_of_rowBit {row row' : Nat → Byte} {a b : Nat}
    (h : ∀ k, k < 8 → rowBit row (8 * a + k) = rowBit row' (8 * b + k)) : row a = row' b := by
  refine BitVec.eq_of_getLsbD_eq fun k hk => ?_
  have hbit := h (7 - k) (by omega)
  rw [rowBit_add (by omega), rowBit_add (by omega), Nat.mul_mod_right, Nat.mul_mod_right,
    Nat.mul_div_cancel_left _ (by decide), Nat.mul_div_cancel_left _ (by decide), show 7 - (0 + (7 - k)) = k by omega] at hbit
  exact hbit

/-- The bits of a byte below its first `n` are all 0. -/
theorem byte_mod_two_pow_eq_zero {row : Nat → Byte} {a n : Nat}
    (h : ∀ k, n ≤ k → k < 8 → rowBit row (8 * a + k) = false) : (row a).toNat % 2 ^ (8 - n) = 0 := by
  refine Nat.eq_of_testBit_eq fun k => ?_
  rw [Nat.testBit_mod_two_pow, Nat.zero_testBit]
  by_cases hk : k < 8 - n
  · have hbit := h (7 - k) (by omega) (by omega)
    rw [rowBit_add (by omega), Nat.mul_mod_right, Nat.mul_div_cancel_left _ (by decide),
      show 7 - (0 + (7 - k)) = k by omega] at hbit
    rw [hbit, Bool.and_false]
  · rw [decide_eq_false hk, Bool.false_and]

/-! ### Samples of a pixel -/

theorem PixFmt.bitsPP_eq (f : PixFmt) : f.bitsPP = f.ct.channels * f.depth := rfl

theorem Ctype.channels_pos (ct : Ctype) : 0 < ct.channels := by cases ct <;> decide

/-- A pixel of less than a byte is one sample that divides it (R191). -/
theorem PixFmt.bitsPP_packed {f : PixFmt} (hd : f.depth ∈ f.ct.depths) (h : f.bitsPP < 8) :
    f.bitsPP = 1 ∨ f.bitsPP = 2 ∨ f.bitsPP = 4 ∨ f.bitsPP = 8 := by
  have hle : f.depth ≤ f.bitsPP := Nat.le_mul_of_pos_left f.depth f.ct.channels_pos
  obtain ⟨-, hone⟩ := (Ctype.depth_cases hd).resolve_right (by omega)
  rw [f.bitsPP_eq, hone, Nat.one_mul]
  exact Ctype.depth_packed hd (by omega)

section
variable {f : PixFmt} {row row' : Nat → Byte} {x x' : Nat} (h : SamePixel f row x row' x')
include h

/-- Byte `c` of a pixel, where samples are whole bytes. -/
theorem SamePixel.byte {bytes c : Nat} (hbits : f.bitsPP = 8 * bytes) (hc : c < bytes) :
    row (x * bytes + c) = row' (x' * bytes + c) := by
  have hoff : ∀ x k, 8 * (x * bytes + c) + k = x * f.bitsPP + (8 * c + k) := fun x k => by rw [hbits]; ring
  refine byte_eq_of_rowBit fun k hk => ?_
  rw [hoff, hoff]
  exact h _ (by omega)

/-- Below depth 8 a pixel is one sample inside a byte. -/
theorem SamePixel.packedSample_eq (hd : f.depth = 1 ∨ f.depth = 2 ∨ f.depth = 4 ∨ f.depth = 8) (hbits : f.bitsPP = f.depth) :
    packedSample row f.depth x = packedSample row' f.depth x' := by
  refine Nat.eq_of_testBit_eq fun k => ?_
  rw [packedSample, packedSample, Nat.testBit_mod_two_pow, Nat.testBit_mod_two_pow, Nat.testBit_div_two_pow,
    Nat.testBit_div_two_pow]
  by_cases hk : k < f.depth
  · have hx := packed_fits hd x
    have hx' := packed_fits hd x'
    have hbit := h (f.depth - 1 - k) (by omega)
    rw [hbits, rowBit_add (by omega), rowBit_add (by omega)] at hbit
    rw [show k + (8 - f.depth - x * f.depth % 8) = 7 - (x * f.depth % 8 + (f.depth - 1 - k)) by omega, hbit,
      show k + (8 - f.depth - x' * f.depth % 8) = 7 - (x' * f.depth % 8 + (f.depth - 1 - k)) by omega]
  · rw [decide_eq_false hk, Bool.false_and, Bool.false_and]

/-- Pixels with the same bits have the same samples. -/
theorem SamePixel.rowNumber_eq (hd : f.depth ∈ f.ct.depths) {j : Nat} (hj : j < f.ct.channels) :
    rowNumber row f x j = rowNumber row' f x' j := by
  obtain ⟨hlow, hone⟩ | h8 | h16 := Ctype.depth_cases hd
  · have hbits : f.bitsPP = f.depth := by rw [f.bitsPP_eq, hone, Nat.one_mul]
    have h16 : f.depth ≠ 16 := by omega
    obtain rfl : j = 0 := by omega
    rw [rowNumber_eq_packedSample row hd h16 hj, rowNumber_eq_packedSample row' hd h16 hj, hone, Nat.mul_one, Nat.mul_one]
    exact h.packedSample_eq (Ctype.depth_packed hd h16) hbits
  · have hbits : f.bitsPP = 8 * f.ct.channels := by rw [f.bitsPP_eq, h8, Nat.mul_comm]
    have h16 : f.depth ≠ 16 := by omega
    rw [rowNumber, rowNumber, if_neg h16, if_neg h16, if_pos h8, if_pos h8, h.byte hbits hj]
  · have hbits : f.bitsPP = 8 * (2 * f.ct.channels) := by rw [f.bitsPP_eq, h16]; ring
    have hoff : ∀ x, 2 * (x * f.ct.channels + j) = x * (2 * f.ct.channels) + 2 * j := fun x => by ring
    have hhigh := h.byte hbits (c := 2 * j) (by omega)
    have hlow := h.byte hbits (c := 2 * j + 1) (by omega)
    rw [rowNumber, rowNumber, if_pos h16, if_pos h16, hoff, hoff, hhigh, Nat.add_assoc, hlow]
    rfl

end

theorem rowNumber_zero (f : PixFmt) (x j : Nat) : rowNumber (fun _ => 0) f x j = 0 := by
  simp [rowNumber]

/-! ### Images in MEM -/

/-- Row `y` of the raw image at `r.dst`. -/
def imageRow (m : Memory) (r : Raster) (y : Nat) (k : Nat) : Byte := memRead m (r.dst + y * r.bpl + k)

/-- The bits of row `y` past its last pixel are 0. -/
def PaddingClear (m : Memory) (r : Raster) (y : Nat) : Prop :=
  ∀ n, r.w * r.fmt.bitsPP ≤ n → n < 8 * r.bpl → rowBit (imageRow m r y) n = false

theorem PaddingClear.byte {m : Memory} {r : Raster} {y : Nat} (h : PaddingClear m r y) (hpad : r.w * r.fmt.bitsPP % 8 ≠ 0) :
    (imageRow m r y (r.bpl - 1)).toNat % 2 ^ (8 - r.w * r.fmt.bitsPP % 8) = 0 := by
  have hbpl : r.bpl = (r.w * r.fmt.bitsPP + 7) / 8 := rfl
  exact byte_mod_two_pow_eq_zero fun k hlow hk => h _ (by omega) (by omega)

/-- The addresses of `len` bytes of row `y` are those bytes, and no byte of another row. -/
theorem row_offset_mem_iff {n y y' c len k : Nat} (hc : c + len ≤ n) (hk : k < n) :
    (y * n + c ≤ y' * n + k ∧ y' * n + k < y * n + c + len) ↔ y' = y ∧ c ≤ k ∧ k < c + len := by
  obtain hlt | rfl | hgt := Nat.lt_trichotomy y' y
  · have := row_offset_lt hlt hk
    omega
  · omega
  · have hle := Nat.mul_le_mul_right n hgt
    rw [Nat.succ_mul] at hle
    omega

section
variable (m : Memory) (r : Raster)

theorem imageRow_memFill {y y' c len k : Nat} (g : Nat → Byte) (hc : c + len ≤ r.bpl) (hk : k < r.bpl) :
    imageRow (memFill m (r.dst + y * r.bpl + c) len g) r y' k =
      if y' = y ∧ c ≤ k ∧ k < c + len then g (k - c) else imageRow m r y' k := by
  have hiff := row_offset_mem_iff (y := y) (y' := y') hc hk
  rw [imageRow, memRead_memFill]
  by_cases h : y' = y ∧ c ≤ k ∧ k < c + len
  · obtain ⟨hlow, hhigh⟩ := hiff.2 h
    obtain ⟨rfl, -⟩ := id h
    rw [if_pos h, if_pos (by omega)]
    congr 1
    omega
  · rw [if_neg h, if_neg (by omega), imageRow]

theorem imageRow_memWrite {y y' c k : Nat} (v : Byte) (hc : c < r.bpl) (hk : k < r.bpl) :
    imageRow (memWrite m (r.dst + y * r.bpl + c) v) r y' k = if y' = y ∧ k = c then v else imageRow m r y' k := by
  have hfill := imageRow_memFill m r (y := y) (y' := y') (len := 1) (fun _ => v) hc hk
  exact hfill.trans (if_congr (by omega) rfl rfl)

/-- The cleared output (R233). -/
theorem rowBit_adam7Clear {y n : Nat} (hy : y < r.h) (hn : n < 8 * r.bpl) :
    rowBit (imageRow (adam7Clear r m) r y) n = false := by
  have hoff : y * r.bpl + n / 8 < r.rawLen := row_offset_lt hy (by omega)
  rw [rowBit, imageRow, adam7Clear, memRead_memFill, if_pos (by omega)]
  exact BitVec.getLsbD_zero

end

/-! ### One turn of the scatter (R235) -/

/-- The bits of a byte that a sample of `d` bits is put into. -/
theorem shiftedSample_getLsbD {c s d e t : Nat} (ht : t < 8) :
    (BitVec.ofNat 8 (((c >>> s) % 2 ^ d) <<< e)).getLsbD t = (decide (e ≤ t ∧ t < e + d) && c.testBit (s + (t - e))) := by
  rw [BitVec.getLsbD_ofNat, Nat.testBit_shiftLeft, Nat.testBit_mod_two_pow, Nat.testBit_shiftRight, decide_eq_true ht,
    Bool.true_and, ← Bool.and_assoc, ← Bool.decide_and]
  congr 2
  simp only [eq_iff_iff]
  omega

section
variable (r : Raster) (cur : List Byte) {y x i y' n : Nat} {m : Memory} (hn : n < 8 * r.bpl) (hx : x < r.w)

include hn hx in
/-- A pixel of whole bytes. -/
theorem rowBit_scatterBytes (hbits : r.fmt.bitsPP = 8 * r.fmt.bytesPP) :
    rowBit (imageRow (scatterBytes r cur y x i m) r y') n =
      if y' = y ∧ x * r.fmt.bitsPP ≤ n ∧ n < x * r.fmt.bitsPP + r.fmt.bitsPP then
        rowBit (fun k => cur.getD k 0) (i * r.fmt.bitsPP + (n - x * r.fmt.bitsPP))
      else rowBit (imageRow m r y') n := by
  have hroom : x * r.fmt.bytesPP + r.fmt.bytesPP ≤ r.bpl := by
    rw [← Nat.succ_mul, Raster.bpl, PixFmt.bpl_eq, hbits, Nat.mul_left_comm]
    have := Nat.mul_le_mul_right r.fmt.bytesPP hx
    omega
  have hoff : ∀ x, x * r.fmt.bitsPP = 8 * (x * r.fmt.bytesPP) := fun x => by rw [hbits]; ring
  rw [rowBit, scatterBytes, imageRow_memFill m r _ hroom (by omega), hoff, hoff, hbits]
  by_cases h : y' = y ∧ x * r.fmt.bytesPP ≤ n / 8 ∧ n / 8 < x * r.fmt.bytesPP + r.fmt.bytesPP
  · have hbyte : (8 * (i * r.fmt.bytesPP) + (n - 8 * (x * r.fmt.bytesPP))) / 8 =
        i * r.fmt.bytesPP + (n / 8 - x * r.fmt.bytesPP) := by omega
    have hbit : (8 * (i * r.fmt.bytesPP) + (n - 8 * (x * r.fmt.bytesPP))) % 8 = n % 8 := by omega
    rw [if_pos h, if_pos (by omega), rowBit, hbyte, hbit]
  · rw [if_neg h, if_neg (by omega), rowBit]

include hn hx in
/-- A pixel of less than a byte: OR leaves the other bits, and the pixel's own were 0. -/
theorem rowBit_scatterBits (hd : r.fmt.bitsPP = 1 ∨ r.fmt.bitsPP = 2 ∨ r.fmt.bitsPP = 4 ∨ r.fmt.bitsPP = 8)
    (hclear : ∀ k, k < r.fmt.bitsPP → rowBit (imageRow m r y) (x * r.fmt.bitsPP + k) = false) :
    rowBit (imageRow (scatterBits r cur y x i m) r y') n =
      if y' = y ∧ x * r.fmt.bitsPP ≤ n ∧ n < x * r.fmt.bitsPP + r.fmt.bitsPP then
        rowBit (fun k => cur.getD k 0) (i * r.fmt.bitsPP + (n - x * r.fmt.bitsPP))
      else rowBit (imageRow m r y') n := by
  have hbyte : x * r.fmt.bitsPP / 8 < r.bpl := r.fmt.packed_offset_lt (by omega) hx
  have hfits := packed_fits hd x
  have hfits' := packed_fits hd i
  simp only [scatterBits]
  rw [rowBit, imageRow_memWrite m r _ hbyte (by omega)]
  by_cases h : y' = y ∧ n / 8 = x * r.fmt.bitsPP / 8
  · obtain ⟨rfl, hsame⟩ := id h
    rw [if_pos h, BitVec.getLsbD_or, shiftedSample_getLsbD (by omega)]
    by_cases hin : x * r.fmt.bitsPP ≤ n ∧ n < x * r.fmt.bitsPP + r.fmt.bitsPP
    · have hold := hclear (n - x * r.fmt.bitsPP) (by omega)
      rw [Nat.add_sub_cancel' hin.1, rowBit, hsame] at hold
      rw [if_pos ⟨rfl, hin⟩, rowBit_add (by omega)]
      rw [imageRow] at hold
      rw [hold, Bool.false_or, decide_eq_true (by omega), Bool.true_and]
      congr 1
      omega
    · rw [if_neg (by omega), decide_eq_false (by omega), Bool.false_and, Bool.or_false, rowBit, hsame, imageRow]
  · rw [if_neg h, if_neg (by omega), rowBit]

end

/-- The bits of the pixel at a place of the schedule, as image column `x` of row `y`. -/
theorem rowBit_scatterPixel {r : Raster} {m : Memory} {p row i y x y' n : Nat} (cur : List Byte)
    (hd : r.fmt.depth ∈ r.fmt.ct.depths) (hy : y = (adam7Pass p).sr + row * (adam7Pass p).ri)
    (hxi : x = (adam7Pass p).sc + i * (adam7Pass p).ci) (hx : x < r.w) (hn : n < 8 * r.bpl)
    (hclear : ∀ k, k < r.fmt.bitsPP → rowBit (imageRow m r y) (x * r.fmt.bitsPP + k) = false) :
    rowBit (imageRow (scatterPixel r cur p row i m) r y') n =
      if y' = y ∧ x * r.fmt.bitsPP ≤ n ∧ n < x * r.fmt.bitsPP + r.fmt.bitsPP then
        rowBit (fun k => cur.getD k 0) (i * r.fmt.bitsPP + (n - x * r.fmt.bitsPP))
      else rowBit (imageRow m r y') n := by
  obtain ⟨hpos, hwhole⟩ := r.fmt.bitsPP_pos_and_packed_or_whole hd
  simp only [scatterPixel, ← hy, ← hxi]
  split
  · next hlow => exact rowBit_scatterBits r cur hn hx (PixFmt.bitsPP_packed hd hlow) hclear
  · next hge => exact rowBit_scatterBytes r cur hn hx (hwhole.resolve_left hge)

end Sys2Proof.Machine
end

section
/-! SUPPORT. ADAM7_DEINTERLACE pass row by pass row (R233 to R235): each pass row is unfiltered from the stream in MEM before the command,
its pixels go to their places, and the pixels not reached and the padding bits stay 0. -/

namespace Sys2Proof.Machine

/-! ### The line buffer and the reconstructed pass rows (R234) -/

theorem lineByte_put (lb : Ram 8) (a x : Nat) (v : Byte) :
    lineByte (Ram.put lb a v) x = if x = a then v else lineByte lb x := by
  unfold lineByte
  split
  · next h => rw [h, Ram.lookup_put_self, Option.getD_some]
  · next h => rw [Ram.lookup_put_ne _ _ _ _ h]

theorem lineByte_storeLine (lb : Ram 8) (cur : List Byte) {x n : Nat} (hx : x < n) :
    lineByte (storeLine lb cur n) x = cur.getD x 0 := by
  induction n with
  | zero => omega
  | succ n ih =>
    rw [storeLine, loop_succ, lineByte_put]
    split
    · next h => rw [h]
    · exact ih (by omega)

/-- A pass row depends on the line buffer only where it holds the row above. -/
theorem passCur_congr_line (m : Memory) {lb lb' : Ram 8} (base bytesPP : Nat) {row : Nat} (t : FilterType) {n : Nat}
    (h : 1 ≤ row → ∀ x, x < n → lineByte lb x = lineByte lb' x) :
    passCur m lb base bytesPP row t n = passCur m lb' base bytesPP row t n := by
  refine loop_congr _ _ _ _ fun x hx => ?_
  have habove : (if 1 ≤ row then lineByte lb x else 0) = if 1 ≤ row then lineByte lb' x else 0 :=
    ite_congr rfl (fun hrow => h hrow x hx) fun _ => rfl
  have hcorner : (if bytesPP ≤ x ∧ 1 ≤ row then lineByte lb (x - bytesPP) else 0) =
      if bytesPP ≤ x ∧ 1 ≤ row then lineByte lb' (x - bytesPP) else 0 :=
    ite_congr rfl (fun hrow => h hrow.2 _ (by omega)) fun _ => rfl
  rw [habove, hcorner]

/-- The filter type of a pass row in the stream in `m` (R232); a type byte above 4, which ends the command, has none. -/
def passFilter (m : Memory) (r : Raster) (p row : Nat) : FilterType :=
  (FilterType.ofCode (memRead m (r.src + adam7Offset r p row)).toNat).getD .none

/-- The pass rows that unfiltering the stream in `m` gives, each with the row above in a line buffer (R234). -/
def passLine (m : Memory) (r : Raster) (p : Nat) : Nat → List Byte
  | 0 => passCur m [] (r.src + adam7Offset r p 0) r.fmt.bytesPP 0 (passFilter m r p 0) (passBpl r.fmt r.w p)
  | row + 1 =>
    passCur m (storeLine [] (passLine m r p row) (passBpl r.fmt r.w p)) (r.src + adam7Offset r p (row + 1)) r.fmt.bytesPP
      (row + 1) (passFilter m r p (row + 1)) (passBpl r.fmt r.w p)

/-- Byte `x` of row `row` of pass `p`. -/
def passRaw (m : Memory) (r : Raster) (p row x : Nat) : Byte := (passLine m r p row).getD x 0

/-- The line buffer holds the row above row `row` of pass `p`, if there is one (R234). -/
def HoldsRowAbove (lb : Ram 8) (m : Memory) (r : Raster) (p row : Nat) : Prop :=
  1 ≤ row → ∀ x, x < passBpl r.fmt r.w p → lineByte lb x = passRaw m r p (row - 1) x

/-- Any line buffer that holds the row above gives the same pass row. -/
theorem passLine_eq {m : Memory} {r : Raster} {p row : Nat} {lb : Ram 8} (h : HoldsRowAbove lb m r p row) :
    passLine m r p row = passCur m lb (r.src + adam7Offset r p row) r.fmt.bytesPP row (passFilter m r p row)
      (passBpl r.fmt r.w p) := by
  cases row with
  | zero => exact passCur_congr_line m _ _ _ fun hrow => absurd hrow (by decide)
  | succ row =>
    refine passCur_congr_line m _ _ _ fun hrow x hx => ?_
    rw [lineByte_storeLine _ _ hx, h hrow x hx]
    rfl

theorem holdsRowAbove_storeLine (lb : Ram 8) (m : Memory) (r : Raster) (p row : Nat) :
    HoldsRowAbove (storeLine lb (passLine m r p row) (passBpl r.fmt r.w p)) m r p (row + 1) :=
  fun _ _ hx => lineByte_storeLine lb _ hx

/-- Unfiltering (R234) byte by byte: the filtered byte plus the predictor of its neighbours in the pass. -/
theorem passRaw_eq {m : Memory} {r : Raster} {p row x : Nat} (hpp : 0 < r.fmt.bytesPP) (hx : x < passBpl r.fmt r.w p) :
    passRaw m r p row x = memRead m (r.src + adam7Offset r p row + 1 + x) +
      (passFilter m r p row).pred (neighbours (passRaw m r p) r.fmt.bytesPP row x) := by
  have habove : ∃ lb, HoldsRowAbove lb m r p row := by
    cases row with
    | zero => exact ⟨[], fun hrow => absurd hrow (by decide)⟩
    | succ row => exact ⟨_, holdsRowAbove_storeLine [] m r p row⟩
  obtain ⟨lb, hlb⟩ := habove
  have hline := passLine_eq hlb
  have hb : (if 1 ≤ row then lineByte lb x else 0) = if 1 ≤ row then passRaw m r p (row - 1) x else 0 :=
    ite_congr rfl (fun hrow => hlb hrow x hx) fun _ => rfl
  have hc : (if r.fmt.bytesPP ≤ x ∧ 1 ≤ row then lineByte lb (x - r.fmt.bytesPP) else 0) =
      if r.fmt.bytesPP ≤ x ∧ 1 ≤ row then passRaw m r p (row - 1) (x - r.fmt.bytesPP) else 0 :=
    ite_congr rfl (fun hrow => hlb hrow.2 _ (by omega)) fun _ => rfl
  have hbyte := passCur_getD m lb (r.src + adam7Offset r p row) r.fmt.bytesPP row (passFilter m r p row) hpp hx
  rw [← hline, hb, hc] at hbyte
  exact hbyte

/-! ### The image being filled (R235, R236) -/

/-- DST in `m` holds the pixels of the places that are `done`, from the pass rows `raw`; all its other bits are 0. -/
structure ImageHolds (r : Raster) (raw : Nat → Nat → Nat → Byte) (done : Nat → Nat → Nat → Prop) (m : Memory) : Prop where
  pixel : ∀ p row i, p < 7 → row < passRows r.w r.h p → i < passWidth r.w p → done p row i →
    SamePixel r.fmt (imageRow m r ((adam7Pass p).sr + row * (adam7Pass p).ri)) ((adam7Pass p).sc + i * (adam7Pass p).ci)
      (raw p row) i
  clear : ∀ p row i, p < 7 → row < passRows r.w r.h p → i < passWidth r.w p → ¬ done p row i →
    SamePixel r.fmt (imageRow m r ((adam7Pass p).sr + row * (adam7Pass p).ri)) ((adam7Pass p).sc + i * (adam7Pass p).ci)
      (fun _ => 0) i
  padding : ∀ y, y < r.h → PaddingClear m r y

/-- The bits of a pixel of the image lie in its row. -/
theorem Raster.pixel_bit_lt (r : Raster) {x k : Nat} (hx : x < r.w) (hk : k < r.fmt.bitsPP) :
    x * r.fmt.bitsPP + k < 8 * r.bpl := by
  have hlt : x * r.fmt.bitsPP + k < r.w * r.fmt.bitsPP := row_offset_lt hx hk
  have hbpl : r.bpl = (r.w * r.fmt.bitsPP + 7) / 8 := rfl
  omega

section
variable {r : Raster} {raw : Nat → Nat → Nat → Byte} {done done' : Nat → Nat → Nat → Prop} {m : Memory}

theorem ImageHolds.congr (h : ImageHolds r raw done m)
    (hdone : ∀ p row i, row < passRows r.w r.h p → i < passWidth r.w p → (done' p row i ↔ done p row i)) :
    ImageHolds r raw done' m where
  pixel := fun p row i hp hrow hi hd => h.pixel p row i hp hrow hi ((hdone p row i hrow hi).1 hd)
  clear := fun p row i hp hrow hi hd => h.clear p row i hp hrow hi fun hd' => hd ((hdone p row i hrow hi).2 hd')
  padding := h.padding

theorem ImageHolds.start (r : Raster) (raw : Nat → Nat → Nat → Byte) (m : Memory) :
    ImageHolds r raw (fun _ _ _ => False) (adam7Clear r m) where
  pixel := fun _ _ _ _ _ _ hd => hd.elim
  clear := fun _ _ _ _ hrow hi _ k hk => by
    rw [rowBit_zero, rowBit_adam7Clear m r (pass_row_lt hrow) (r.pixel_bit_lt (pass_column_lt hi) hk)]
  padding := fun _ hy _ _ hn => rowBit_adam7Clear m r hy hn

/-- One turn of the scatter: the place is done, and by R236 no other place has a bit of its pixel. -/
theorem ImageHolds.scatter {p row i : Nat} {cur : List Byte} (h : ImageHolds r raw done m) (hd : r.fmt.depth ∈ r.fmt.ct.depths)
    (hp : p < 7) (hrow : row < passRows r.w r.h p) (hi : i < passWidth r.w p) (hnew : ¬ done p row i)
    (hcur : ∀ k, cur.getD k 0 = raw p row k) :
    ImageHolds r raw (fun p' row' i' => done p' row' i' ∨ (p' = p ∧ row' = row ∧ i' = i)) (scatterPixel r cur p row i m) := by
  have hx := pass_column_lt hi
  have hbit := fun y' n (hn : n < 8 * r.bpl) => rowBit_scatterPixel (y' := y') cur hd (row := row) rfl rfl hx hn fun k hk =>
    (h.clear p row i hp hrow hi hnew k hk).trans (rowBit_zero _)
  have hself : SamePixel r.fmt (imageRow (scatterPixel r cur p row i m) r ((adam7Pass p).sr + row * (adam7Pass p).ri))
      ((adam7Pass p).sc + i * (adam7Pass p).ci) (raw p row) i := fun k hk => by
    rw [hbit _ _ (r.pixel_bit_lt hx hk), if_pos ⟨rfl, by omega, by omega⟩, Nat.add_sub_cancel_left, rowBit, rowBit, hcur]
  have hother : ∀ p' row' i', p' < 7 → i' < passWidth r.w p' → ¬ (p' = p ∧ row' = row ∧ i' = i) →
      SamePixel r.fmt
        (imageRow (scatterPixel r cur p row i m) r ((adam7Pass p').sr + row' * (adam7Pass p').ri))
        ((adam7Pass p').sc + i' * (adam7Pass p').ci)
        (imageRow m r ((adam7Pass p').sr + row' * (adam7Pass p').ri)) ((adam7Pass p').sc + i' * (adam7Pass p').ci) :=
    fun p' row' i' hp' hi' hne k hk => by
      rw [hbit _ _ (r.pixel_bit_lt (pass_column_lt hi') hk), if_neg]
      rintro ⟨hy, hin⟩
      obtain ⟨hcol, -⟩ := (row_offset_mem_iff (c := 0) (len := r.fmt.bitsPP) (by omega) hk).1 hin
      exact hne (pass_place_inj hp hp' hy hcol)
  refine ⟨fun p' row' i' hp' hrow' hi' hdone => ?_, fun p' row' i' hp' hrow' hi' hdone => ?_, fun y hy n hlow hn => ?_⟩
  · by_cases hplace : p' = p ∧ row' = row ∧ i' = i
    · obtain ⟨rfl, rfl, rfl⟩ := hplace
      exact hself
    · exact fun k hk => (hother p' row' i' hp' hi' hplace k hk).trans
        (h.pixel p' row' i' hp' hrow' hi' (hdone.resolve_right hplace) k hk)
  · obtain ⟨hold, hplace⟩ := not_or.1 hdone
    exact fun k hk => (hother p' row' i' hp' hi' hplace k hk).trans (h.clear p' row' i' hp' hrow' hi' hold k hk)
  · have hend := Nat.mul_le_mul_right r.fmt.bitsPP hx
    rw [Nat.succ_mul] at hend
    rw [hbit y n hn, if_neg (by omega)]
    exact h.padding y hy n hlow hn

end

/-! ### The passes (R233) -/

/-- `k` is where ADAM7_DEINTERLACE stands on reaching row `row` of pass `p` of the stream in `m₀`. -/
structure PassesDone (r : Raster) (m₀ : Memory) (p row : Nat) (k : Adam7Work) : Prop where
  off     : k.off = adam7Offset r p row
  rows    : k.rows = adam7RowsBefore r p row
  line    : HoldsRowAbove k.lb m₀ r p row
  written : Memory.Written r.dst r.rawLen m₀ k.mem
  image   : ImageHolds r (passRaw m₀ r) (fun p' row' _ => ScanBefore p' row' p row) k.mem

section
variable {r : Raster} {m₀ : Memory} {p row : Nat} {k : Adam7Work}

theorem PassesDone.start (r : Raster) (m₀ : Memory) (lb : Ram 8) :
    PassesDone r m₀ 0 0 { mem := adam7Clear r m₀, lb := lb, off := 0, rows := 0, p := 0, r := 0, i := 0 } where
  off := by simp [adam7Offset]
  rows := rfl
  line := fun hrow => absurd hrow (by decide)
  written := Memory.Written.refl.fill _ fun j hj => by omega
  image := (ImageHolds.start r _ m₀).congr fun _ _ _ _ _ => by simp [ScanBefore]

theorem PassesDone.nextPass (h : PassesDone r m₀ p (passRows r.w r.h p) k) : PassesDone r m₀ (p + 1) 0 k where
  off := h.off.trans (adam7Offset_passRows r p)
  rows := h.rows
  line := fun hrow => absurd hrow (by decide)
  written := h.written
  image := h.image.congr fun p' row' _ hrow' _ => by
    unfold ScanBefore
    constructor
    · rintro (hlt | ⟨-, h0⟩)
      · obtain hlt | rfl := Nat.lt_or_eq_of_le (Nat.le_of_lt_succ hlt)
        · exact .inl hlt
        · exact .inr ⟨rfl, hrow'⟩
      · exact absurd h0 (Nat.not_lt_zero row')
    · rintro (hlt | ⟨rfl, -⟩)
      · exact .inl (Nat.lt_succ_of_lt hlt)
      · exact .inl (Nat.lt_succ_self p')

/-- The scatter of a pass row (R235). -/
theorem scatterRow_imageHolds {m : Memory} (hd : r.fmt.depth ∈ r.fmt.ct.depths) (hp : p < 7) (hrow : row < passRows r.w r.h p)
    (h : ImageHolds r (passRaw m₀ r) (fun p' row' _ => ScanBefore p' row' p row) m) :
    ImageHolds r (passRaw m₀ r) (fun p' row' _ => ScanBefore p' row' p (row + 1))
      (scatterRow r (passLine m₀ r p row) p row m) := by
  have hloop := loop_invariant (scatterPixel r (passLine m₀ r p row) p row)
    (fun i => ImageHolds r (passRaw m₀ r) fun p' row' i' => ScanBefore p' row' p row ∨ (p' = p ∧ row' = row ∧ i' < i))
    (passWidth r.w p) m (h.congr fun _ _ _ _ _ => by simp) fun i m' hi hm' =>
      (hm'.scatter hd hp hrow hi (by unfold ScanBefore; omega) fun _ => rfl).congr fun _ _ _ _ _ => by
        rw [or_assoc, ← and_or_left, ← and_or_left, Nat.lt_succ_iff_lt_or_eq]
  refine hloop.congr fun p' row' i' _ hi' => ?_
  rw [scanBefore_succ_iff]
  refine or_congr_right ⟨?_, ?_⟩
  · rintro ⟨rfl, rfl⟩
    exact ⟨rfl, rfl, hi'⟩
  · rintro ⟨rfl, rfl, -⟩
    exact ⟨rfl, rfl⟩

section
variable (hap : Apart r.src (adam7Len r) r.dst r.rawLen)
include hap

/-- The type byte of a pass row is still the one of `m₀` when the row begins. -/
theorem PassesDone.type_eq (h : PassesDone r m₀ p row k) (hp : p < 7) (hrow : row < passRows r.w r.h p) :
    memRead k.mem (r.src + k.off) = memRead m₀ (r.src + adam7Offset r p row) := by
  have := adam7Offset_le r hp hrow
  rw [h.off]
  exact h.written.agreeOn_apart hap le_rfl _ ⟨_, by omega, rfl⟩

/-- A pass row is unfiltered as from `m₀`, with the line buffer as it is. -/
theorem PassesDone.cur_eq (h : PassesDone r m₀ p row k) (hp : p < 7) (hrow : row < passRows r.w r.h p) :
    passCur k.mem k.lb (r.src + k.off) r.fmt.bytesPP row (passFilter m₀ r p row) (passBpl r.fmt r.w p) =
      passLine m₀ r p row := by
  have := adam7Offset_le r hp hrow
  rw [passLine_eq h.line, h.off]
  exact passCur_agree _ _ _ _ (fun x hx => ⟨adam7Offset r p row + (1 + x), by omega, Nat.add_assoc _ _ _⟩)
    (h.written.agreeOn_apart hap le_rfl)

/-- A pass row whose type is not legal ends the command before the row is reconstructed. -/
theorem adam7Row_of_badType (h : PassesDone r m₀ p row k) (hp : p < 7) (hrow : row < passRows r.w r.h p)
    (hbad : 4 < (memRead m₀ (r.src + adam7Offset r p row)).toNat) :
    adam7Row r p row k = ({ k with p := p, r := row, i := 0 },
      some (.filterType (memRead m₀ (r.src + adam7Offset r p row)).toNat)) := by
  simp only [adam7Row, h.type_eq hap hp hrow, FilterType.ofCode_above_four hbad]

variable (hd : r.fmt.depth ∈ r.fmt.ct.depths)
include hd

/-- A pass row whose type is legal is reconstructed and scattered. -/
theorem adam7Row_done (hp : p < 7) (hrow : row < passRows r.w r.h p)
    (htype : (memRead m₀ (r.src + adam7Offset r p row)).toNat ≤ 4) (h : PassesDone r m₀ p row k) :
    (adam7Row r p row k).2 = none ∧ PassesDone r m₀ p (row + 1) (adam7Row r p row k).1 := by
  obtain ⟨ft, hft⟩ := (FilterType.exists_ofCode_iff _).2 htype
  have hcur := h.cur_eq hap hp hrow
  rw [passFilter, hft, Option.getD_some] at hcur
  simp only [adam7Row, h.type_eq hap hp hrow, hft, hcur, true_and]
  exact {
    off := by rw [adam7Offset_succ, h.off]
    rows := by rw [h.rows]; rfl
    line := holdsRowAbove_storeLine _ m₀ r p row
    written := loop_keeps _ (Memory.Written r.dst r.rawLen m₀) _ _ h.written fun i m hi hm =>
      scatterPixel_written r _ hd hrow hi le_rfl hm
    image := scatterRow_imageHolds hd hp hrow h.image }

/-- The first `n` rows of a pass, when their types are legal. -/
theorem adam7Pass_done {n : Nat} (hp : p < 7) (hn : n ≤ passRows r.w r.h p)
    (htypes : ∀ row, row < n → (memRead m₀ (r.src + adam7Offset r p row)).toNat ≤ 4) (h : PassesDone r m₀ p 0 k) :
    ∃ k', sweep (adam7Row r p) n k = (k', none) ∧ PassesDone r m₀ p n k' :=
  exists_sweep_completes _ (PassesDone r m₀ p) n k h fun row _ hrow hk =>
    adam7Row_done hap hd hp (hrow.trans_le hn) (htypes row hrow) hk

/-- The first `n` passes, when their types are legal. -/
theorem adam7Passes_done (lb : Ram 8) {n : Nat} (hn : n ≤ 7)
    (htypes : ∀ p row, p < n → row < passRows r.w r.h p → (memRead m₀ (r.src + adam7Offset r p row)).toNat ≤ 4) :
    ∃ k, sweep (fun p => sweep (adam7Row r p) (passRows r.w r.h p)) n
      { mem := adam7Clear r m₀, lb := lb, off := 0, rows := 0, p := 0, r := 0, i := 0 } = (k, none) ∧
      PassesDone r m₀ n 0 k := by
  refine exists_sweep_completes _ (PassesDone r m₀ · 0) n _ (.start r m₀ lb) fun p k hp hk => ?_
  obtain ⟨k', hpass, hk'⟩ := adam7Pass_done hap hd (hp.trans_le hn) le_rfl (fun row => htypes p row hp) hk
  rw [hpass]
  exact ⟨rfl, hk'.nextPass⟩

/-- The first pass row whose type is not legal ends the command. -/
theorem adam7Passes_stopped (lb : Ram 8) (hp : p < 7) (hrow : row < passRows r.w r.h p)
    (htypes : ∀ p' row', row' < passRows r.w r.h p' → ScanBefore p' row' p row →
      (memRead m₀ (r.src + adam7Offset r p' row')).toNat ≤ 4)
    (hbad : 4 < (memRead m₀ (r.src + adam7Offset r p row)).toNat) :
    ∃ k, adam7Passes r m₀ lb = ({ k with p := p, r := row, i := 0 },
      some (.filterType (memRead m₀ (r.src + adam7Offset r p row)).toNat)) ∧ PassesDone r m₀ p row k := by
  obtain ⟨k, hpasses, hk⟩ := adam7Passes_done hap hd lb hp.le fun p' row' hp' hrow' => htypes p' row' hrow' (.inl hp')
  obtain ⟨k', hpass, hk'⟩ := adam7Pass_done hap hd hp hrow.le
    (fun row' hrow' => htypes p row' (hrow'.trans hrow) (.inr ⟨rfl, hrow'⟩)) hk
  exact ⟨k', sweep_of_raised _ hpasses (sweep_of_raised _ hpass (adam7Row_of_badType hap hk' hp hrow hbad) hrow) hp, hk'⟩

end

end

/-! ### The command -/

/-- What MEM of `t` holds when the passes reached row `row` of pass `p` of the stream in `s`. -/
structure State.Deinterlaced (s t : State) (r : Raster) (p row : Nat) : Prop where
  outside : State.sameOutside s t r.dst r.rawLen
  raw     : ∀ p' row' x, x < passBpl r.fmt r.w p' → s.passType r p' row' ≤ 4 →
    ∃ ft, FilterType.ofCode (s.passType r p' row') = some ft ∧
      passRaw s.mem r p' row' x = s.readByte (r.src + adam7Offset r p' row' + 1 + x) +
        ft.pred (neighbours (passRaw s.mem r p') r.fmt.bytesPP row' x)
  samples : ∀ p' row' i j, p' < 7 → row' < passRows r.w r.h p' → i < passWidth r.w p' → j < r.fmt.ct.channels →
    (ScanBefore p' row' p row →
      t.sampleAt r.dst r ((adam7Pass p').sr + row' * (adam7Pass p').ri) ((adam7Pass p').sc + i * (adam7Pass p').ci) j =
        rowNumber (passRaw s.mem r p' row') r.fmt i j) ∧
    (¬ ScanBefore p' row' p row →
      t.sampleAt r.dst r ((adam7Pass p').sr + row' * (adam7Pass p').ri) ((adam7Pass p').sc + i * (adam7Pass p').ci) j = 0)
  padding : ∀ y, y < r.h → r.w * r.fmt.bitsPP % 8 ≠ 0 →
    (t.readByte (r.dst + y * r.bpl + (r.bpl - 1))).toNat % 2 ^ (8 - r.w * r.fmt.bitsPP % 8) = 0

theorem PassesDone.deinterlaced {s t : State} {r : Raster} {p row : Nat} {k : Adam7Work} (h : PassesDone r s.mem p row k)
    (hd : r.fmt.depth ∈ r.fmt.ct.depths) (hpp : 0 < r.fmt.bytesPP) (ht : t.mem = k.mem) : State.Deinterlaced s t r p row := by
  obtain ⟨-, -, -, hwritten, himage⟩ := h
  rw [← ht] at hwritten himage
  exact {
    outside := fun a ha => hwritten.memRead_outside ha
    raw := fun p' row' x hx htype => by
      obtain ⟨ft, hft⟩ := (FilterType.exists_ofCode_iff _).2 htype
      have hraw := passRaw_eq (m := s.mem) (row := row') hpp hx
      rw [passFilter, show FilterType.ofCode (memRead s.mem _).toNat = some ft from hft, Option.getD_some] at hraw
      exact ⟨ft, hft, hraw⟩
    samples := fun p' row' i j hp' hrow' hi hj =>
      ⟨fun hb => (himage.pixel p' row' i hp' hrow' hi hb).rowNumber_eq hd hj,
        fun hb => ((himage.clear p' row' i hp' hrow' hi hb).rowNumber_eq hd hj).trans (rowNumber_zero r.fmt i j)⟩
    padding := fun y hy hpad => (himage.padding y hy).byte hpad }

/-- How the command completes when its passes end in `k`, with or without an error (R233, R264). -/
theorem exec_adam7_of_passes {s : State} {f : PixFmt} {r : Raster} {k : Adam7Work} {e : Option CmdError}
    (hf : formatFor .adam7 s.latch = some f) (hr : s.latch.raster f = r) (hfits : s.latch.fits s.params (adam7Len r) r.rawLen)
    (hline : r.bpl ≤ s.params.lineBufBytes) (hrun : adam7Passes r s.mem s.lineBuf = (k, e)) :
    ∃ t, exec .adam7Deinterlace s = .next t ∧ t.mem = k.mem ∧ State.sameRest s t ∧
      (e = none → State.completedWith s t k.rows) ∧ (∀ err, e = some err → State.failedWith s t err.code err.info k.rows) := by
  subst hr
  have ht := exec_adam7_of_fits hf hfits hline
  obtain ⟨hhost, hcrc, -⟩ := commandFrame .adam7Deinterlace s _ ht
  have hrest : State.sameRest s (adam7Run s (s.latch.raster f)) := ⟨hhost, hcrc (by simp) (by simp)⟩
  refine ⟨_, ht, ?_, hrest, ?_, ?_⟩ <;> rw [adam7Run, hrun]
  · cases e <;> rfl
  · rintro rfl
    exact ⟨rfl, rfl, rfl⟩
  · rintro err rfl
    exact ⟨rfl, rfl, rfl⟩

/-- Settles O58: every pass row has a legal type, so every place of the schedule is done. -/
theorem adam7Deinterlaces : Obligations.Adam7Deinterlaces := by
  unfold Obligations.Adam7Deinterlaces
  intro s f hf r hfits hline htypes
  have hd := formatFor_depth_mem hf
  obtain ⟨k, hrun, hk⟩ := adam7Passes_done (m₀ := s.mem) hfits.apart_needed hd s.lineBuf le_rfl htypes
  obtain ⟨t, ht, hmem, hrest, hcompleted, -⟩ := exec_adam7_of_passes hf rfl hfits hline hrun
  obtain ⟨hout, hraw, hsamples, hpadding⟩ := hk.deinterlaced hd (formatFor_bytesPP_pos hf) hmem
  have hrows : k.rows = adam7Rows r := hk.rows
  refine ⟨t, ht, hrows ▸ hcompleted rfl, hout, hrest, ⟨passRaw s.mem r, ?_, ?_⟩, hpadding⟩
  · exact fun p row x hp hrow hx => hraw p row x hx (htypes p row hp hrow)
  · exact fun p row i j hp hrow hi hj => (hsamples p row i j hp hrow hi hj).1 (.inl hp)

/-- Settles O59: the places before the first pass row with a bad type are done, and that row raises FILTER_TYPE. -/
theorem adam7StopsAtBadType : Obligations.Adam7StopsAtBadType := by
  unfold Obligations.Adam7StopsAtBadType
  intro s f p0 row0 hf r hfits hline hp0 hrow0 htypes hbad
  have hd := formatFor_depth_mem hf
  have hlegal : ∀ p row, row < passRows r.w r.h p → ScanBefore p row p0 row0 → s.passType r p row ≤ 4 :=
    fun p row hrow hb => htypes p row (by unfold ScanBefore at hb; omega) hrow hb
  obtain ⟨k, hrun, hk⟩ := adam7Passes_stopped (m₀ := s.mem) hfits.apart_needed hd s.lineBuf hp0 hrow0 hlegal hbad
  obtain ⟨t, ht, hmem, hrest, -, hfailed⟩ := exec_adam7_of_passes hf rfl hfits hline hrun
  obtain ⟨hout, hraw, hsamples, hpadding⟩ := hk.deinterlaced hd (formatFor_bytesPP_pos hf) hmem
  refine ⟨t, ht, hk.rows ▸ hfailed _ rfl, hout, hrest, ⟨passRaw s.mem r, ?_, ?_⟩, hpadding⟩
  · exact fun p row x _ hrow hb hx => hraw p row x hx (hlegal p row hrow hb)
  · intro p row i j hp hrow hi hj
    obtain ⟨hdone, hclear⟩ := hsamples p row i j hp hrow hi hj
    split
    · next hb => exact hdone hb
    · next hb => exact hclear hb

end Sys2Proof.Machine
end

section
/-! SUPPORT. NOP (R250): it completes and writes OUT_COUNT only, so a started NOP leaves STATUS with DONE and the old DROPPED. -/

namespace Sys2Proof.Machine

/-- NOP (R250): OUT_COUNT 0 and a completion without flags (R261), which leaves every other field as it is. -/
theorem exec_nop (s : State) :
    exec .nop s = .next { s with outCount := 0, status := { s.status with busy := false, done := true } } := rfl

/-- STATUS of a command that was started and completed without flags (R25, R28): DONE, and DROPPED as it was before the start. -/
theorem Status.word_started_finished (f : Status) :
    (f.started.finished []).word = if f.dropped then 0x42 else 0x02 := by
  apply BitVec.eq_of_toNat_eq
  rw [Status.word_toNat]
  cases hdropped : f.dropped <;> simp [hdropped]

/-- Settles O33: the step of a placed NOP is `exec .nop` on the started command, whose IRQ is that of every completion. -/
theorem nopCompletes : Obligations.NopCompletes := by
  unfold Obligations.NopCompletes
  refine ⟨rfl, exec_nop, fun s => ?_⟩
  obtain ⟨-, hplaced⟩ := stepRunsTheLatchedCommand
  have hstep : step (s.withFetchWord 32 0) = exec .nop (s.withFetchWord 32 0) := hplaced s 0 .nop (decode_encode (i := .nop) rfl)
  have hexec := exec_nop (s.withFetchWord 32 0)
  obtain ⟨-, -, hirq⟩ := completionRaisesIrq _ _ _ hexec
  exact ⟨_, hstep.trans hexec, Status.word_started_finished s.status, rfl, rfl, rfl, rfl, rfl, hirq⟩

end Sys2Proof.Machine
end

section
/-! SUPPORT. Reset while a command runs (R271, R290 to R292): what the step with `rst` high leaves, and which bytes of MEM
it makes free. -/

namespace Sys2Proof.Machine

/-! ### The DST region of the running command -/

theorem dstRegion_eq_none {i : Instr} (h : i = .nop ∨ i = .crcInit ∨ i = .crcUpdate) (L : Args) : dstRegion i L = none := by
  obtain rfl | rfl | rfl := h <;> rfl

/-- Every other command declares DST (R267). -/
theorem dstRegion_eq_dst {i : Instr} (hnop : i ≠ .nop) (hinit : i ≠ .crcInit) (hupdate : i ≠ .crcUpdate) (L : Args) :
    dstRegion i L = some L.dst := by
  cases i with
  | nop => exact absurd rfl hnop
  | crcInit => exact absurd rfl hinit
  | crcUpdate => exact absurd rfl hupdate
  | _ => rfl

theorem State.runningDst_of_error {s : State} {why : IllegalWord} (h : decode s.command = .error why) : s.runningDst = none := by
  rw [State.runningDst, h]

theorem State.runningDst_of_ok {s : State} {i : Instr} (h : decode s.command = .ok i) : s.runningDst = dstRegion i s.latch := by
  rw [State.runningDst, h]

/-! ### MEM after reset -/

theorem State.abandonedMem_of_idle {s : State} (h : s.status.busy = false) : s.abandonedMem = s.mem := by
  simp only [State.abandonedMem, h]

theorem State.abandonedMem_of_noDst {s : State} (h : s.runningDst = none) : s.abandonedMem = s.mem := by
  cases hbusy : s.status.busy <;> simp only [State.abandonedMem, hbusy, h]

/-- A command with a DST region: each byte of it that exists in MEM is a free draw, and every other byte stays (R292). -/
theorem State.memRead_abandonedMem {s : State} {d : Region} (hb : s.status.busy = true) (hd : s.runningDst = some d) (a : Nat) :
    memRead s.abandonedMem a =
      if d.base ≤ a ∧ a < d.base + d.len ∧ a < s.params.memBytes then Config.abandonedByte s.draws a else s.readByte a := by
  have hmem : s.abandonedMem =
      memFill s.mem d.base (d.existing s.params) (fun j => Config.abandonedByte s.draws (d.base + j)) := by
    simp only [State.abandonedMem, hb, hd]
  have hexists : (d.base ≤ a ∧ a < d.base + d.existing s.params) ↔
      (d.base ≤ a ∧ a < d.base + d.len ∧ a < s.params.memBytes) := by
    unfold Region.existing
    omega
  rw [hmem, memRead_memFill]
  simp only [hexists]
  split
  · next hin => rw [Nat.add_sub_cancel' hin.1]
  · rfl

/-! ### The step -/

/-- `rst` wins over whatever the block does (R271). -/
theorem step_of_rst {s : State} {rest : List Bool} (h : s.rstPin = true :: rest) :
    step s = .next (State.assertReset { s with rstPin := rest }) := by
  rw [step, stepOnce, h]

/-- Settles O21: reset keeps the host's side, and MEM by whether the block runs a command that declares DST. -/
theorem rstAbandonsTheCommand : Obligations.RstAbandonsTheCommand := by
  unfold Obligations.RstAbandonsTheCommand
  intro s rest hrst
  refine ⟨_, step_of_rst hrst, rfl, rfl, rfl, rfl, rfl, rfl, rfl, rfl, ?_, ?_, ?_, ?_⟩
  · intro hidle
    exact State.abandonedMem_of_idle (s := { s with rstPin := rest }) hidle
  · intro why hword
    exact State.abandonedMem_of_noDst (State.runningDst_of_error (s := { s with rstPin := rest }) hword)
  · intro i _ hword hi
    have hdst := State.runningDst_of_ok (s := { s with rstPin := rest }) hword
    exact State.abandonedMem_of_noDst (hdst.trans (dstRegion_eq_none hi _))
  · intro i a hbusy hword hnop hinit hupdate
    have hdst := State.runningDst_of_ok (s := { s with rstPin := rest }) hword
    exact State.memRead_abandonedMem (s := { s with rstPin := rest }) hbusy (hdst.trans (dstRegion_eq_dst hnop hinit hupdate _)) a

end Sys2Proof.Machine
end

section
/-! SUPPORT. Which errors a command raises (R263): the codes of its start checks (R265) and of the loop of its operation, all among
those that the table gives it. -/

namespace Sys2Proof.Machine

/-! ### Errors with a code of a list -/

/-- If there is an error, its code is one of `codes`. -/
def ErrorWithin (codes : List Byte) (o : Option CmdError) : Prop := ∀ e, o = some e → e.code ∈ codes

/-- A command that sets ERR records one of `codes` in ERRCODE. -/
structure State.RaisesWithin (codes : List Byte) (s t : State) : Prop where
  errcode : s.status.err = false → t.status.err = true → t.status.errcode ∈ codes

section
variable {codes : List Byte}

theorem errorWithin_none : ErrorWithin codes none := fun _ h => by cases h

theorem errorWithin_some {e : CmdError} (h : e.code ∈ codes) : ErrorWithin codes (some e) := by
  rintro _ ⟨⟩
  exact h

theorem errorWithin_ite {p : Prop} [Decidable p] {o o' : Option CmdError} (h : ErrorWithin codes o)
    (h' : ErrorWithin codes o') : ErrorWithin codes (if p then o else o') := by
  split
  · exact h
  · exact h'

/-- A loop raises what its turns raise. -/
theorem sweep_errorWithin {σ : Type} (f : Nat → σ → σ × Option CmdError) (n : Nat) (s : σ)
    (hf : ∀ k x, ErrorWithin codes (f k x).2) : ErrorWithin codes (sweep f n s).2 := by
  intro e he
  obtain ⟨k, x, -, -, hturn⟩ := sweep_stopped f n s _ e (Prod.ext rfl he)
  exact hf k x e (by rw [hturn])

theorem State.raise_raisesWithin (s : State) {e : CmdError} (h : e.code ∈ codes) : State.RaisesWithin codes s (s.raise e) :=
  ⟨fun _ _ => h⟩

/-- An operation that leaves STATUS to its end raises what it concludes with. -/
theorem State.conclude_raisesWithin {s u : State} {out : Nat} {e : Option CmdError} {flags : List Flag}
    (he : ErrorWithin codes e) (hu : u.status = s.status := by rfl) : State.RaisesWithin codes s (u.conclude out e flags) := by
  refine ⟨fun hs ht => ?_⟩
  obtain ⟨-, hstatus⟩ | ⟨err, rfl, hstatus⟩ := u.conclude_status_cases out e flags
  · rw [hstatus, Status.finished_err, hu, hs] at ht
    cases ht
  · rw [hstatus]
    exact he err rfl

/-! ### Start checks (R265) -/

theorem firstError_errorWithin {cs : List (Option CmdError)} (h : ∀ c ∈ cs, ErrorWithin codes c) :
    ErrorWithin codes (firstError cs) := by
  intro e he
  obtain ⟨c, hc, hce⟩ := List.exists_of_findSome?_eq_some he
  exact h c hc e hce

theorem State.checked_raisesWithin {s run : State} {cs : List (Option CmdError)} (hcs : ∀ c ∈ cs, ErrorWithin codes c)
    (hrun : State.RaisesWithin codes s run) : State.RaisesWithin codes s (s.checked cs run) := by
  obtain ⟨e, he, hraise⟩ | ⟨-, hok⟩ := s.checked_cases cs run _ rfl
  · rw [hraise]
    exact s.raise_raisesWithin (firstError_errorWithin hcs e he)
  · rwa [hok]

theorem rangeCheck_errorWithin (h : 0x02 ∈ codes) (p : Params) (id : RegionId) (r : Region) :
    ErrorWithin codes (rangeCheck p id r) :=
  errorWithin_ite errorWithin_none (errorWithin_some h)

theorem overlapCheck_errorWithin (h : 0x03 ∈ codes) (id : RegionId) (r d : Region) :
    ErrorWithin codes (overlapCheck id r d) :=
  errorWithin_ite (errorWithin_some h) errorWithin_none

theorem srcShortCheck_errorWithin (h : 0x05 ∈ codes) (L : Args) (needed : Nat) :
    ErrorWithin codes (srcShortCheck L needed) :=
  errorWithin_ite (errorWithin_some h) errorWithin_none

theorem dstShortCheck_errorWithin (h : 0x06 ∈ codes) (L : Args) (needed : Nat) :
    ErrorWithin codes (dstShortCheck L needed) :=
  errorWithin_ite (errorWithin_some h) errorWithin_none

theorem lineBufCheck_errorWithin (h : 0x0C ∈ codes) (p : Params) (needed : Nat) :
    ErrorWithin codes (lineBufCheck p needed) :=
  errorWithin_ite (errorWithin_some h) errorWithin_none

theorem srcDstChecks_errorWithin (hrange : 0x02 ∈ codes) (hoverlap : 0x03 ∈ codes) (p : Params) (L : Args) :
    ∀ c ∈ srcDstChecks p L, ErrorWithin codes c := by
  simp only [srcDstChecks, List.forall_mem_cons]
  exact ⟨rangeCheck_errorWithin hrange _ _ _, rangeCheck_errorWithin hrange _ _ _, overlapCheck_errorWithin hoverlap _ _ _,
    List.forall_mem_nil _⟩

/-- The codes of the checks that every raster command makes: RANGE, OVERLAP, SRC_SHORT and DST_SHORT. -/
def rasterCheckCodes : List Byte := [0x02, 0x03, 0x05, 0x06]

theorem rasterChecks_errorWithin (h : rasterCheckCodes ⊆ codes) (p : Params) (L : Args) (a b : Nat) :
    ∀ c ∈ rasterChecks p L a b, ErrorWithin codes c := by
  simp only [rasterChecks, List.forall_mem_append, List.forall_mem_cons]
  exact ⟨srcDstChecks_errorWithin (h (by decide)) (h (by decide)) p L, srcShortCheck_errorWithin (h (by decide)) L a,
    dstShortCheck_errorWithin (h (by decide)) L b, List.forall_mem_nil _⟩

/-- With or without the palette's tables EXPAND makes checks of the same kinds. -/
theorem expandChecks_errorWithin (h : rasterCheckCodes ⊆ codes) (p : Params) (L : Args) (r : Raster) :
    ∀ c ∈ expandChecks p L r, ErrorWithin codes c := by
  have hrange := rangeCheck_errorWithin (codes := codes) (h (by decide)) p
  have hoverlap := overlapCheck_errorWithin (codes := codes) (h (by decide))
  simp only [expandChecks, List.forall_mem_append, List.forall_mem_cons]
  refine ⟨?_, srcShortCheck_errorWithin (h (by decide)) L _, dstShortCheck_errorWithin (h (by decide)) L _,
    List.forall_mem_nil _⟩
  split
  · simp only [List.forall_mem_cons]
    exact ⟨hrange _ _, hrange _ _, hrange _ _, hrange _ _, hoverlap _ _ _, hoverlap _ _ _, hoverlap _ _ _,
      List.forall_mem_nil _⟩
  · exact srcDstChecks_errorWithin (h (by decide)) (h (by decide)) p L

/-! ### The loops of the raster commands -/

theorem unfilterRows_errorWithin (h : 0x09 ∈ codes) (r : Raster) (m : Memory) : ErrorWithin codes (unfilterRows r m).2 := by
  refine sweep_errorWithin _ _ _ fun y k => ?_
  unfold unfilterRow
  dsimp only
  split
  · exact errorWithin_some h
  · exact errorWithin_none

theorem adam7Passes_errorWithin (h : 0x09 ∈ codes) (r : Raster) (m : Memory) (lb : Ram 8) :
    ErrorWithin codes (adam7Passes r m lb).2 := by
  refine sweep_errorWithin _ _ _ fun p k => sweep_errorWithin _ _ _ fun row k => ?_
  unfold adam7Row
  dsimp only
  split
  · exact errorWithin_some h
  · exact errorWithin_none

/-- A pixel fails by its palette index only (R198). -/
theorem pixelAt_error {m : Memory} {L : Args} {r : Raster} {y x : Nat} {e : CmdError} (h : pixelAt m L r y x = .error e) :
    e.code = 0x0A := by
  unfold pixelAt at h
  split at h
  · cases h
  · cases h
  · unfold pixelPalette at h
    split at h <;> cases h
    rfl
  · cases h
  · cases h

theorem expandPixels_errorWithin (h : 0x0A ∈ codes) (L : Args) (r : Raster) (m : Memory) :
    ErrorWithin codes (expandPixels L r m).2 := by
  refine sweep_errorWithin _ _ _ fun y k => sweep_errorWithin _ _ _ fun x k => ?_
  unfold expandPixel
  split
  · next e he => exact errorWithin_some (pixelAt_error he ▸ h)
  · exact errorWithin_none

theorem packRow_errorWithin (h : 0x0B ∈ codes) (m : Memory) (r : Raster) (y : Nat) : ErrorWithin codes (packRow m r y).2 := by
  refine sweep_errorWithin _ _ _ fun x row => sweep_errorWithin _ _ _ fun j row => ?_
  unfold packSample
  dsimp only
  split
  · exact errorWithin_none
  · split
    · exact errorWithin_some h
    · exact errorWithin_none

theorem packRows_errorWithin (h : 0x0B ∈ codes) (r : Raster) (m : Memory) : ErrorWithin codes (packRows r m).2 := by
  refine sweep_errorWithin _ _ _ fun y k => ?_
  have hrow := packRow_errorWithin h k.mem r y
  unfold packOneRow
  split
  · next hsome => rwa [hsome] at hrow
  · exact errorWithin_none

end

/-! ### LZW_DECODE -/

section
variable {mem : Memory} {src : Region}

theorem srcByte_error {j : Nat} {e : CmdError} (h : srcByte mem src j = .error e) : e.code = 0x05 := by
  unfold srcByte at h
  split at h <;> cases h
  rfl

theorem lzwDataByte_error {z : Lzw} {e : CmdError} (h : lzwDataByte mem src z = .error e) : e.code = 0x05 := by
  unfold lzwDataByte at h
  split at h
  · next hsrc => cases h; exact srcByte_error hsrc
  · cases h

theorem nextDataByte_error {z : Lzw} {e : CmdError} (h : nextDataByte mem src z = .error e) : e.code = 0x05 := by
  unfold nextDataByte at h
  split at h
  · cases h
  · split at h
    · split at h
      · next hsrc => cases h; exact srcByte_error hsrc
      · split at h
        · cases h
        · exact lzwDataByte_error h
    · exact lzwDataByte_error h

theorem fillBits_error (n : Nat) {z : Lzw} {e : CmdError} (h : fillBits mem src n z = .error e) : e.code = 0x05 := by
  induction n generalizing z with
  | zero => cases h
  | succ n ih =>
    unfold fillBits at h
    split at h
    · cases h
    · split at h
      · next hbyte => cases h; exact nextDataByte_error hbyte
      · cases h
      · exact ih h

/-- Fetching a code fails by SRC_SHORT only (R123). -/
theorem nextCodeBits_error {z : Lzw} {e : CmdError} (h : nextCodeBits mem src z = .error e) : e.code = 0x05 := by
  unfold nextCodeBits at h
  split at h
  · next hfill => cases h; exact fillBits_error _ hfill
  · split at h <;> cases h

theorem lzwOrdinary_error {dst : Region} {k : LzwRun} {code : Nat} {e : CmdError}
    (h : (lzwOrdinary dst k code).2 = some (.error e)) : e.code = 0x08 := by
  unfold lzwOrdinary at h
  split at h
  · split at h
    · cases h
    · split at h <;> cases h
  · cases h
    rfl

/-- A turn of the loop fails in fetching its code or in checking it (R129). -/
theorem lzwCodeStep_error {dst : Region} {k : LzwRun} {e : CmdError} (h : (lzwCodeStep src dst k).2 = some (.error e)) :
    e.code = 0x05 ∨ e.code = 0x08 := by
  unfold lzwCodeStep at h
  split at h
  · next hfetch => cases h; exact .inl (nextCodeBits_error hfetch)
  · cases h
  · split at h
    · cases h
    · split at h
      · cases h
      · exact .inr (lzwOrdinary_error h)

theorem lzwLoop_error {dst : Region} (n : Nat) {k : LzwRun} {e : CmdError} (h : (lzwLoop src dst n k).2 = .error e) :
    e.code = 0x05 ∨ e.code = 0x08 := by
  induction n generalizing k with
  | zero => cases h
  | succ n ih =>
    unfold lzwLoop at h
    split at h
    · next hstep =>
      cases h
      exact lzwCodeStep_error (congrArg Prod.snd hstep)
    · exact ih h

end

theorem lzwDecodeFrom_raisesWithin {s t : State} {m : Nat} (h : lzwDecodeFrom s m = .next t) :
    State.RaisesWithin (mayRaise .lzwDecode) s t := by
  obtain ⟨err, herr, rfl⟩ | ⟨-, rfl⟩ | ⟨-, rfl⟩ := lzwComplete_cases _ _ _ _ h
  · refine State.conclude_raisesWithin (errorWithin_some ?_)
    obtain hcode | hcode := lzwLoop_error _ herr <;> rw [hcode] <;> decide
  · exact State.conclude_raisesWithin errorWithin_none
  · exact State.conclude_raisesWithin errorWithin_none

theorem execLzwDecode_raisesWithin {s t : State} (h : execLzwDecode s = .next t) :
    State.RaisesWithin (mayRaise .lzwDecode) s t := by
  obtain ⟨e, he, rfl⟩ | ⟨-, ⟨e, he, rfl⟩ | ⟨b, -, ⟨-, rfl⟩ | ⟨-, -, hrun⟩⟩⟩ := execLzwDecode_cases s t h
  · exact s.raise_raisesWithin (firstError_errorWithin (srcDstChecks_errorWithin (by decide) (by decide) _ _) e he)
  · refine State.conclude_raisesWithin (errorWithin_some ?_)
    rw [srcByte_error he]
    decide
  · exact State.conclude_raisesWithin (errorWithin_some (by simp [CmdError.code, mayRaise]))
  · exact lzwDecodeFrom_raisesWithin hrun

/-! ### Commands -/

theorem rasterCheckCodes_subset_filter (ftype : Nat) : rasterCheckCodes ⊆ mayRaise (.filter ftype) := by
  change rasterCheckCodes ⊆ mayRaise (.filter 0)
  decide

/-- FILTER raises in its start checks only (R170). -/
theorem execFilter_raisesWithin {ftype : Nat} {s t : State} (h : execFilter ftype s = .next t) :
    State.RaisesWithin (mayRaise (.filter ftype)) s t := by
  obtain ⟨-, rfl⟩ | ⟨ft, -, ⟨-, rfl⟩ | ⟨f, -, rfl⟩⟩ := execFilter_cases ftype s t h
  · exact s.raise_raisesWithin (by simp [CmdError.code, mayRaise])
  · exact s.raise_raisesWithin (by simp [CmdError.code, mayRaise])
  · exact State.checked_raisesWithin (rasterChecks_errorWithin (rasterCheckCodes_subset_filter ftype) _ _ _ _)
      (State.conclude_raisesWithin errorWithin_none)

theorem adam7Run_raisesWithin (s : State) (r : Raster) : State.RaisesWithin (mayRaise .adam7Deinterlace) s (adam7Run s r) :=
  State.conclude_raisesWithin (adam7Passes_errorWithin (by decide) r s.mem s.lineBuf)

theorem exec_raisesWithin {i : Instr} {s t : State} (h : exec i s = .next t) : State.RaisesWithin (mayRaise i) s t := by
  cases i with
  | nop => cases h; exact State.conclude_raisesWithin (out := 0) (flags := []) errorWithin_none
  | lzwDecode => exact execLzwDecode_raisesWithin h
  | crcInit => cases h; exact State.conclude_raisesWithin (u := s.withCrc _) (out := 0) (flags := []) errorWithin_none
  | crcUpdate =>
    rw [execCrcUpdate_cases s t h]
    refine State.checked_raisesWithin ?_ (State.conclude_raisesWithin errorWithin_none)
    exact List.forall_mem_singleton.2 (rangeCheck_errorWithin (by decide) _ _ _)
  | unfilter =>
    obtain ⟨-, rfl⟩ | ⟨f, -, rfl⟩ := execUnfilter_cases s t h
    · exact s.raise_raisesWithin (by simp [CmdError.code, mayRaise])
    · exact State.checked_raisesWithin (rasterChecks_errorWithin (by decide) _ _ _ _)
        (State.conclude_raisesWithin (unfilterRows_errorWithin (by decide) _ _))
  | filter ftype => exact execFilter_raisesWithin h
  | expand =>
    obtain ⟨-, rfl⟩ | ⟨f, -, rfl⟩ := execExpand_cases s t h
    · exact s.raise_raisesWithin (by simp [CmdError.code, mayRaise])
    · exact State.checked_raisesWithin (expandChecks_errorWithin (by decide) _ _ _)
        (State.conclude_raisesWithin (expandPixels_errorWithin (by decide) _ _ _))
  | pack =>
    obtain ⟨-, rfl⟩ | ⟨f, -, rfl⟩ := execPack_cases s t h
    · exact s.raise_raisesWithin (by simp [CmdError.code, mayRaise])
    · exact State.checked_raisesWithin (rasterChecks_errorWithin (by decide) _ _ _ _)
        (State.conclude_raisesWithin (packRows_errorWithin (by decide) _ _))
  | adam7Deinterlace =>
    obtain ⟨-, rfl⟩ | ⟨f, -, rfl⟩ := execAdam7_cases s t h
    · exact s.raise_raisesWithin (by simp [CmdError.code, mayRaise])
    · refine State.checked_raisesWithin ?_ (adam7Run_raisesWithin s _)
      refine List.forall_mem_append.2 ⟨rasterChecks_errorWithin (by decide) _ _ _ _, ?_⟩
      exact List.forall_mem_singleton.2 (lineBufCheck_errorWithin (by decide) _ _)

/-- Settles O29: a command ends by a start check or by what its operation concludes with, each with a code of its own. -/
theorem errorsAreTheCommandsOwn : Obligations.ErrorsAreTheCommandsOwn := by
  unfold Obligations.ErrorsAreTheCommandsOwn
  exact fun _ _ _ h => (exec_raisesWithin h).errcode

end Sys2Proof.Machine
end
